-- ==== Sys2Proof/Word.lean ====
section
/-! DEFINITION. The word types of MPT-CORE: the byte of the host window and the 64-bit value of one host access. -/

namespace Sys2Proof

/-- One byte of the host window (20_memory.md R73). -/
abbrev Byte := BitVec 8

/-- The 64-bit value of one host access, register or slot (20_memory.md R75). -/
abbrev DWord := BitVec 64

end Sys2Proof
end

