-- ==== Sys2Proof/Syntax.lean ====
section
/-! DEFINITION. The twelve commands of 30_encoding.md R103, one constructor per row of spec/opcode_table.json. -/

namespace Sys2Proof

/-- A command (30_encoding.md R102, R103). Only KODD carries an operand, its bit offset IMM6 (R101). -/
inductive Instr where
  | nop
  | kadd
  | ksub
  | kmul
  | kodd (off : Nat)
  | addl
  | subl
  | sqr
  | red
  | rpass
  | mkmp
  | clr
deriving DecidableEq, Repr

end Sys2Proof
end

