-- ==== Sys2Proof/Config.lean ====
section
/-! DEFINITION. What one build of the block fixes (its parameters), and the free values: what the spec leaves open. -/

namespace Sys2Proof

/-- The four limb widths a build may choose (00_scope.md R4). -/
inductive LimbWidth where
  | w8
  | w16
  | w32
  | w64
deriving DecidableEq, Repr

/-- Bytes in one limb. -/
def LimbWidth.bytes : LimbWidth → Nat
  | .w8 => 1
  | .w16 => 2
  | .w32 => 4
  | .w64 => 8

/-- Bits in one limb. -/
def LimbWidth.bits (w : LimbWidth) : Nat := 8 * w.bytes

/-- The build parameters (00_scope.md R4, R5; 20_memory.md R71): `width` is W, `depth` is LM_DEPTH, `hostBase` is
HOST_BASE. They never change; State holds them so that a statement about every state is one about every build. -/
structure Config where
  width : LimbWidth
  depth : Nat
  hostBase : Nat
deriving DecidableEq, Repr

/-- W, the limb width in bits (00_scope.md R4). -/
def Config.W (c : Config) : Nat := c.width.bits

/-- W / 8: how many bytes of a slot hold the limb (20_memory.md R72). -/
def Config.bytes (c : Config) : Nat := c.width.bytes

/-- DESIGN CHOICE (log 1): the build that `State.reset` is of. It is the one the spec's protocol vectors name
(95_test_vectors.md section 2.5, "W = 8 and LM_DEPTH = 64 unless stated"), placed at host address 0. -/
def Config.sample : Config := { width := .w8, depth := 64, hostBase := 0 }

/-- FREE VALUE (log 2; 70_reset_and_hazards.md R291): what a byte of LM reads as when nothing has written it since
reset number `epoch`. Nothing constrains it. -/
opaque Config.staleByte (epoch address : Nat) : Byte

/-- FREE VALUE (log 3; 20_memory.md R75, R81(c)): the `n`-th unspecified value a host read returns. -/
opaque Config.freeRead (n : Nat) : DWord

end Sys2Proof
end

