-- ==== Sys2Proof/WellFormed.lean ====
section
/-! DEFINITION. Which commands an encoding exists for, and which build parameters the spec allows. -/

namespace Sys2Proof

/-- A command the encoding can carry: KODD's offset is the unsigned 6-bit IMM6 (30_encoding.md R101). An offset of W or
more is well formed; it is an error when performed (BADOFF), not an ill-formed word. -/
def Instr.wellFormed : Instr → Bool
  | .kodd off => decide (off < 64)
  | .nop | .kadd | .ksub | .kmul | .addl | .subl | .sqr | .red | .rpass | .mkmp | .clr => true

/-- The build parameters the spec allows (00_scope.md R5: `1 ≤ LM_DEPTH ≤ 1966080`; R4 holds by the type of `width`). -/
def Config.wellFormed (c : Config) : Bool := decide (1 ≤ c.depth ∧ c.depth ≤ 1966080)

end Sys2Proof
end

