-- ==== Sys2Proof/Decode.lean ====
section
/-! DEFINITION. Decoding and encoding of the command word (30_encoding.md R100–R104). -/

namespace Sys2Proof

/-- Why a command word is illegal (30_encoding.md R104). -/
inductive IllegalWord where
  /-- R104(b), (c): some bit of `d[63:14]` is set. -/
  | reservedBits
  /-- R104(a): OPC is not in the table of R103. -/
  | reservedOpcode
  /-- R104(d): IMM6 ≠ 0 with OPC ≠ 0x04. -/
  | strayImmediate
deriving DecidableEq, Repr

/-- OPC, `d[7:0]` (30_encoding.md R100). -/
def opcField (d : DWord) : Nat := (d.extractLsb' 0 8).toNat

/-- IMM6, `d[13:8]`, read unsigned and unscaled (30_encoding.md R100, R101). -/
def imm6Field (d : DWord) : Nat := (d.extractLsb' 8 6).toNat

/-- RSV and RSVX together, `d[63:14]` (30_encoding.md R100). -/
def reservedField (d : DWord) : Nat := (d.extractLsb' 14 50).toNat

/-- The opcode map of 30_encoding.md R103: the command of an OPC, with IMM6 for the one that has it. -/
def opcodeMap (opc imm : Nat) : Option Instr :=
  match opc with
  | 0x00 => some .nop
  | 0x01 => some .kadd
  | 0x02 => some .ksub
  | 0x03 => some .kmul
  | 0x04 => some (.kodd imm)
  | 0x10 => some .addl
  | 0x11 => some .subl
  | 0x20 => some .sqr
  | 0x30 => some .red
  | 0x31 => some .rpass
  | 0x32 => some .mkmp
  | 0x40 => some .clr
  | _ => none

/-- Decoding of the data of a CMD write, in the order R103 gives: reserved bits, then OPC, then a stray IMM6. It does not
depend on W (R105). -/
def decode (d : DWord) : Except IllegalWord Instr :=
  if reservedField d ≠ 0 then .error .reservedBits
  else
    match opcodeMap (opcField d) (imm6Field d) with
    | none => .error .reservedOpcode
    | some i => if opcField d ≠ 0x04 ∧ imm6Field d ≠ 0 then .error .strayImmediate else .ok i

/-- OPC of a command (30_encoding.md R103). -/
def Instr.opc : Instr → Nat
  | .nop => 0x00
  | .kadd => 0x01
  | .ksub => 0x02
  | .kmul => 0x03
  | .kodd _ => 0x04
  | .addl => 0x10
  | .subl => 0x11
  | .sqr => 0x20
  | .red => 0x30
  | .rpass => 0x31
  | .mkmp => 0x32
  | .clr => 0x40

/-- IMM6 of a command: KODD's offset, 0 for every other (30_encoding.md R100). -/
def Instr.imm6 : Instr → Nat
  | .kodd off => off
  | .nop | .kadd | .ksub | .kmul | .addl | .subl | .sqr | .red | .rpass | .mkmp | .clr => 0

/-- The data of the CMD write that issues a command: OPC | (IMM6 << 8) (30_encoding.md R100, R107). -/
def encode (i : Instr) : DWord :=
  BitVec.ofNat 64 (i.opc + 2 ^ 8 * (i.imm6 % 2 ^ 6))

/-- The mask of a command's row over `d[63:0]` (30_encoding.md R103). -/
def Instr.rowMask : Instr → DWord
  | .kodd _ => 0xFFFFFFFFFFFFC0FF
  | .nop | .kadd | .ksub | .kmul | .addl | .subl | .sqr | .red | .rpass | .mkmp | .clr => 0xFFFFFFFFFFFFFFFF

/-- The match value of a command's row: OPC alone (30_encoding.md R103). -/
def Instr.rowMatch (i : Instr) : DWord := BitVec.ofNat 64 i.opc

/-- The host's question: the command decoded from the low `nbits` bits of `w`, the bits above being 0. A value that does not
fit the 64-bit data of a CMD write is no command. -/
def decodeTableWord (nbits w : Nat) : Option Instr :=
  if w % 2 ^ nbits < 2 ^ 64 then (decode (BitVec.ofNat 64 (w % 2 ^ nbits))).toOption else none

end Sys2Proof
end

