-- ==== Sys2Proof/Machine/State.lean ====
section
/-! DEFINITION. The state of the block and of its bus, as plain data, and the state right after reset. -/

namespace Sys2Proof.Machine

/-- The seven command errors (60_exceptions.md R252). -/
inductive ErrCode where
  | illegalCmd
  | badOff
  | badP
  | length
  | range
  | overlap
  | capacity
deriving DecidableEq, Repr

/-- CTRL (10_state.md R24): CAPCHK is bit 0, IE is bit 1; every other bit is reserved and reads 0 (R38). -/
structure Ctrl where
  capchk : Bool
  ie : Bool
deriving DecidableEq, Repr

/-- STATUS (10_state.md R25–R27): bits 0 to 5 and ECODE; every other bit is reserved and reads 0 (R38). -/
structure Status where
  busy : Bool
  done : Bool
  err : Bool
  ovr : Bool
  c : Bool
  z : Bool
  ecode : BitVec 8
deriving DecidableEq, Repr

/-- The registers the host writes and commands read (30_encoding.md R102; 10_state.md R24, R28, R30–R32). The registers of
width W are 64-bit vectors whose bits above W are 0 (R37). The pending latch's snapshot is one of these (R40). -/
structure Regs where
  ctrl : Ctrl
  p : BitVec 32
  abase : BitVec 32
  alen : BitVec 32
  cbase : BitVec 32
  clen : BitVec 32
  bval : DWord
  opa : DWord
  opb : DWord
deriving DecidableEq, Repr

/-- The content of the pending-command latch: the data of the CMD write and the register snapshot (10_state.md R40,
20_memory.md R82; log 17). -/
structure Pending where
  data : DWord
  snap : Regs
deriving DecidableEq, Repr

/-- One host access: a host address, a width in bytes and, for a write, its data (20_memory.md R71, R75). -/
inductive Access where
  | read (addr bytes : Nat)
  | write (addr bytes : Nat) (data : DWord)
deriving DecidableEq, Repr

/-- What can happen next to the block (log 4): a host access, the block's own turn (it completes the command in flight,
if there is one), or the reset input. -/
inductive Event where
  | access (a : Access)
  | blockTurn
  | reset
deriving DecidableEq, Repr

/-- The bus's answer to the last host access (log 5): none yet, a write taken, read data, or a bus error
(20_memory.md R75), which for a read carries unspecified data. -/
inductive Response where
  | idle
  | ack
  | data (v : DWord)
  | busErrorRead (v : DWord)
  | busErrorWrite
deriving DecidableEq, Repr

/-- The limb memory: (window offset, byte) pairs, the offsets strictly rising. A byte that is not listed has not been
written since reset (log 10). -/
abbrev Memory := List Host.Cell

/-- Why the machine stops. -/
inductive Fault where
  /-- Raised by a host access to an address outside the block's 2^24-byte window (20_memory.md R70, R71), which the block
  does not have. Safe (log 8): no statement about a next state follows from it. -/
  | outsideWindow (addr : Nat)
deriving DecidableEq, Repr

/-- Why an instruction has no meaning. -/
inductive Refusal where
  /-- Raised by an arm of `exec` whose instruction has no meaning yet; no arm of this model does. Safe. -/
  | notModelled (mnemonic : String)
deriving DecidableEq, Repr

/-- The whole machine (INVENTORY.md, '## State'). -/
structure State where
  /-- the build parameters W, LM_DEPTH, HOST_BASE (00_scope.md R4, R5; 20_memory.md R71); nothing changes them -/
  cfg : Config
  /-- CTRL, P, ABASE, ALEN, CBASE, CLEN, BVAL, OPA, OPB (10_state.md R24, R28, R30–R32) -/
  regs : Regs
  /-- STATUS (10_state.md R25–R27) -/
  status : Status
  /-- CMD, the word of the last accepted command (10_state.md R36) -/
  cmd : BitVec 16
  /-- RLO (10_state.md R33) -/
  rlo : DWord
  /-- RHI (10_state.md R33) -/
  rhi : DWord
  /-- PASSES (10_state.md R34) -/
  passes : BitVec 32
  /-- EINFO (10_state.md R35) -/
  einfo : BitVec 16
  /-- LM (10_state.md R39) -/
  mem : Memory
  /-- the pending-command latch (10_state.md R40) -/
  pend : Option Pending
  /-- the model's own (log 2): how often the reset input has acted -/
  epoch : Nat
  /-- the model's own (log 3): how many unspecified read values have been drawn -/
  draws : Nat
  /-- the model's own (log 4): the events to come, the next one first -/
  inbox : List Event
  /-- the model's own (log 5): the answer to the last host access -/
  response : Response
  /-- the host-side fault, never cleared (60_exceptions.md R262) -/
  hostFault : Bool
deriving DecidableEq, Repr

/-- The registers' reset values (10_state.md R22; 70_reset_and_hazards.md R290). -/
def Regs.reset : Regs :=
  { ctrl := { capchk := true, ie := false }, p := 0, abase := 0, alen := 0, cbase := 0, clen := 0,
    bval := 0, opa := 0, opb := 0 }

/-- STATUS after reset (70_reset_and_hazards.md R290). -/
def Status.reset : Status :=
  { busy := false, done := false, err := false, ovr := false, c := false, z := false, ecode := 0 }

/-- The state right after reset of a build (70_reset_and_hazards.md R290–R292): the registers as listed, the latch empty, no
limb written. -/
def State.resetOf (c : Config) : State :=
  { cfg := c, regs := Regs.reset, status := Status.reset, cmd := 0, rlo := 0, rhi := 0, passes := 0, einfo := 0,
    mem := [], pend := none, epoch := 0, draws := 0, inbox := [], response := .idle, hostFault := false }

/-- The state right after reset. The build it is of is a DESIGN CHOICE (log 1). -/
def State.reset : State := State.resetOf Config.sample

end Sys2Proof.Machine
end

