-- ==== Sys2Proof/Machine/Ops.lean ====
section
/-! DEFINITION. The named operations over memory and registers: limb memory, register writes of width W, accepting a command,
completing it, entering the error state and leaving it. -/

namespace Sys2Proof.Machine

/-- What every meaning and every step answers. -/
abbrev Answer := Host.Outcome State Fault Refusal

/-! ### Limb memory -/

/-- The byte an offset holds, `none` where nothing has written it since reset. -/
def Memory.read : Memory → Nat → Option Byte
  | [], _ => none
  | (a, b) :: m, x => if a = x then some b else Memory.read m x

/-- One byte written, the offsets kept strictly rising. -/
def Memory.write : Memory → Nat → Byte → Memory
  | [], x, v => [(x, v)]
  | (a, b) :: m, x, v =>
    if x < a then (x, v) :: (a, b) :: m
    else if x = a then (x, v) :: m
    else (a, b) :: Memory.write m x v

/-- The canonical form: offsets strictly rising. No entry can equal what an unlisted offset holds, since that is no value. -/
abbrev Memory.wf (m : Memory) : Prop := m.Pairwise (fun x y => x.1 < y.1)

/-- The window offset of limb `i`'s slot (20_memory.md R72). -/
abbrev slotAddr (i : Nat) : Nat := 0x100000 + 8 * i

/-- The low `k` bytes of `v` stored at `x`, `x + 1`, …, least significant first (20_memory.md R73). -/
def Memory.storeLE (m : Memory) : Nat → Nat → Nat → Memory
  | _, _, 0 => m
  | x, v, k + 1 => Memory.storeLE (m.write x (BitVec.ofNat 8 v)) (x + 1) (v / 2 ^ 8) k

/-- `LM[i] <- v mod 2^W` (20_memory.md R72, R77): the limb's W/8 bytes, in its slot. -/
def Memory.writeLimb (m : Memory) (c : Config) (i v : Nat) : Memory :=
  m.storeLE (slotAddr i) v c.bytes

/-- `MemWrite(a, n, v)` (00_scope.md R10): limb `a + k` takes bits `[k·W, (k+1)·W)` of `v`, for every `k < n`. -/
def Memory.writeLimbs (m : Memory) (c : Config) : Nat → Nat → Nat → Memory
  | _, 0, _ => m
  | a, n + 1, v => Memory.writeLimbs (m.writeLimb c a v) c (a + 1) n (v / 2 ^ c.W)

/-- One byte of LM: what was last written, else the free value (70_reset_and_hazards.md R291; log 2). -/
def State.byteAt (s : State) (x : Nat) : Byte := (s.mem.read x).getD (Config.staleByte s.epoch x)

/-- `k` bytes from `x` up, read least significant first (20_memory.md R73). -/
def State.loadLE (s : State) : Nat → Nat → Nat
  | _, 0 => 0
  | x, k + 1 => (s.byteAt x).toNat + 2 ^ 8 * s.loadLE (x + 1) k

/-- `LM[i]` as a number below 2^W (10_state.md R39). -/
def State.limb (s : State) (i : Nat) : Nat := s.loadLE (slotAddr i) s.cfg.bytes

/-- `MemRead(a, n)`, the value of `n` limbs from index `a`, least significant limb first (00_scope.md R9, R10). -/
def State.memRead (s : State) : Nat → Nat → Nat
  | _, 0 => 0
  | a, n + 1 => s.limb a + 2 ^ s.cfg.W * s.memRead (a + 1) n

/-- `MemWrite(a, n, v)` on the state (00_scope.md R10). -/
def State.memWrite (s : State) (a n v : Nat) : State :=
  { s with mem := s.mem.writeLimbs s.cfg a n v }

/-- One limb written (20_memory.md R72). -/
def State.setLimb (s : State) (i v : Nat) : State :=
  { s with mem := s.mem.writeLimb s.cfg i v }

/-! ### Registers of width W -/

/-- What a register of width W keeps of a value: bits [W−1:0] (10_state.md R37; log 19). -/
def limbReg (c : Config) (v : Nat) : DWord := BitVec.ofNat 64 (v % 2 ^ c.W)

/-- A kernel command's result pair, RLO and RHI (10_state.md R33). -/
def State.setPair (s : State) (lo hi : Nat) : State :=
  { s with rlo := limbReg s.cfg lo, rhi := limbReg s.cfg hi }

/-- `csr[PASSES] <- k` (10_state.md R34; log 16). -/
def State.setPasses (s : State) (k : Nat) : State := { s with passes := BitVec.ofNat 32 k }

/-! ### The command protocol -/

/-- ECODE of an error (60_exceptions.md R252). -/
def ErrCode.code : ErrCode → BitVec 8
  | .illegalCmd => 1
  | .badOff => 2
  | .badP => 3
  | .length => 4
  | .range => 5
  | .overlap => 6
  | .capacity => 7

/-- The command word being performed (10_state.md R40): bits [15:0] of the latch's data; with the latch empty, what CMD
holds (log 11). -/
def State.word (s : State) : BitVec 16 :=
  match s.pend with
  | some q => q.data.setWidth 16
  | none => s.cmd

/-- Entering the error state, "raise E(info)" (60_exceptions.md R258, R264): ERR, ECODE and EINFO are written, BUSY falls and
the latch empties (10_state.md R40). DONE is not written: acceptance has cleared it (20_memory.md R82), so it stays 0
(log 18). -/
def State.raise (s : State) (e : ErrCode) : State :=
  { s with
    status := { s.status with busy := false, err := true, ecode := e.code }
    einfo := s.word
    pend := none }

/-- Leaving the error state (60_exceptions.md R265; 10_state.md R25): ERR and ECODE become 0; EINFO is kept. -/
def State.clearErr (s : State) : State :=
  { s with status := { s.status with err := false, ecode := 0 } }

/-- Completion without error (60_exceptions.md R258; 10_state.md R40): BUSY falls, DONE rises, the latch empties. -/
def State.finish (s : State) : State :=
  { s with
    status := { s.status with busy := false, done := true }
    pend := none }

/-- Acceptance of a command (20_memory.md R82): CMD takes `d[15:0]`, the latch takes `d` and the snapshot, BUSY rises and
DONE falls. -/
def State.accept (s : State) (d : DWord) : State :=
  { s with
    cmd := d.setWidth 16
    pend := some { data := d, snap := s.regs }
    status := { s.status with busy := true, done := false } }

/-- A dropped write's only effect: OVR is set (60_exceptions.md R263). -/
def State.setOvr (s : State) : State := { s with status := { s.status with ovr := true } }

/-- A command that a check may stop: the first failing check's error is taken and nothing is written (60_exceptions.md
R251), else the command's effect happens. -/
def State.guarded (s : State) (err : Option ErrCode) (effect : State → State) : State :=
  match err with
  | some e => s.raise e
  | none => effect s

/-- What the block fetches on its turn: the data of the command in flight, from the latch, never from memory
(20_memory.md R85). -/
def State.fetch (s : State) : Option DWord := s.pend.map Pending.data

end Sys2Proof.Machine
end

