-- ==== Sys2Proof/Machine/Operands.lean ====
section
/-! DEFINITION. The operand forms of 30_encoding.md R102: register operands from the snapshot, the two limb regions, the modulus
quantities, and the checks on them in the order of 60_exceptions.md R259. -/

namespace Sys2Proof.Machine

/-- The registers a command reads: the latch's snapshot (10_state.md R40); with the latch empty, the live registers
(log 11). -/
def State.src (s : State) : Regs :=
  match s.pend with
  | some q => q.snap
  | none => s.regs

/-- What a register of width W reads as: its bits [W−1:0] (10_state.md R37). -/
def limbVal (c : Config) (v : DWord) : Nat := v.toNat % 2 ^ c.W

/-- The kernel operand a, OPA (10_state.md R32). -/
def State.opA (s : State) : Nat := limbVal s.cfg s.src.opa

/-- The kernel operand b, OPB (10_state.md R32). -/
def State.opB (s : State) : Nat := limbVal s.cfg s.src.opb

/-- The limb operand of ADDL and SUBL, BVAL (10_state.md R31). -/
def State.bLimb (s : State) : Nat := limbVal s.cfg s.src.bval

/-- The exponent p (10_state.md R28). -/
def State.exponent (s : State) : Nat := s.src.p.toNat

/-- A region of limb memory: the indices `[base, base + len)` (10_state.md R30). -/
structure Region where
  base : Nat
  len : Nat
deriving DecidableEq, Repr

/-- Region A, the source or in-place operand (10_state.md R30). -/
def State.regionA (s : State) : Region := { base := s.src.abase.toNat, len := s.src.alen.toNat }

/-- Region C, the destination (10_state.md R30). -/
def State.regionC (s : State) : Region := { base := s.src.cbase.toNat, len := s.src.clen.toNat }

/-- `BASE + LEN ≤ LM_DEPTH`, computed without wrap (20_memory.md R78). -/
abbrev Region.inRange (r : Region) (c : Config) : Prop := r.base + r.len ≤ c.depth

/-- Two regions overlap (20_memory.md R79). -/
abbrev Region.overlaps (a c : Region) : Prop := a.base < c.base + c.len ∧ c.base < a.base + a.len

/-- The value a region holds (00_scope.md R9). -/
def State.regionVal (s : State) (r : Region) : Nat := s.memRead r.base r.len

/-- `2^(LEN·W)`: one more than the greatest value a region can hold. -/
abbrev Region.cap (r : Region) (c : Config) : Nat := 2 ^ (r.len * c.W)

/-- The window offsets that hold the bytes of a region's limbs (20_memory.md R72, R73): offset `x` is one of the W/8 low bytes
of the slot of some limb of the region. -/
def Region.hasByte (r : Region) (c : Config) (x : Nat) : Bool :=
  decide (slotAddr r.base ≤ x ∧ x < slotAddr (r.base + r.len) ∧ (x - slotAddr 0) % 8 < c.bytes)

/-- MpN = ceil(p / W) (00_scope.md R6(b); 10_state.md R29). -/
def mpn (c : Config) (p : Nat) : Nat := (p + c.W - 1) / c.W

/-- LMASK, the mask of the modulus's top limb (00_scope.md R6(c); 10_state.md R29). -/
def lmask (c : Config) (p : Nat) : Nat :=
  if p % c.W = 0 then 2 ^ c.W - 1 else 2 ^ (p % c.W) - 1

/-- Mp = 2^p − 1 (00_scope.md R6(a)). -/
abbrev mpValue (p : Nat) : Nat := 2 ^ p - 1

/-- BADP (60_exceptions.md R254). -/
def State.exponentError (s : State) : Option ErrCode :=
  if s.exponent < 2 then some .badP else none

/-- The checks of ADDL and SUBL (41_linear_ops.md R160, R162): LENGTH, then RANGE. -/
def State.inPlaceError (s : State) : Option ErrCode :=
  if s.regionA.len = 0 then some .length
  else if s.regionA.inRange s.cfg then none
  else some .range

/-- The checks of MKMP and CLR on region C, which must hold `need` limbs (43_reducer.md R208, 44_housekeeping.md R242):
LENGTH, then RANGE. -/
def State.destinationError (s : State) (need : Nat) : Option ErrCode :=
  if s.regionC.len = 0 ∨ s.regionC.len < need then some .length
  else if s.regionC.inRange s.cfg then none
  else some .range

/-- The checks of SQR, RED and RPASS on regions A and C, the second of which must hold `need` limbs (42_squarer.md R180,
43_reducer.md R204, R206): LENGTH, then RANGE, then OVERLAP. -/
def State.sourceDestinationError (s : State) (need : Nat) : Option ErrCode :=
  if s.regionA.len = 0 then some .length
  else if s.regionC.len = 0 ∨ s.regionC.len < need then some .length
  else if s.regionA.inRange s.cfg ∧ s.regionC.inRange s.cfg then
    (if s.regionA.overlaps s.regionC then some .overlap else none)
  else some .range

end Sys2Proof.Machine
end

