-- ==== Sys2Proof/Machine/Flags.lean ====
section
/-! DEFINITION. The result flags C and Z (10_state.md R26), the words STATUS and CTRL read as, the W1C write of STATUS, and the
interrupt output. -/

namespace Sys2Proof.Machine

/-- `flags(C, Z)` (00_scope.md R10). -/
def State.flags (s : State) (c z : Bool) : State :=
  { s with status := { s.status with c := c, z := z } }

/-- The end of a command that writes `v` to region C (42_squarer.md R180, 43_reducer.md R204, R206, R208,
44_housekeeping.md R242): the limbs, C = 0, Z = 1 exactly when `v` is 0, and completion. -/
def State.writeResult (s : State) (v : Nat) : State :=
  ((s.memWrite s.regionC.base s.regionC.len v).flags false (v == 0)).finish

/-- The end of ADDL and SUBL (41_linear_ops.md R160, R162): with a carry or borrow `out` and CAPCHK = 1 the error CAPACITY,
region A unchanged; else `r` to region A, C = out, Z = 1 exactly when `r` is 0, and completion. -/
def State.writeInPlace (s : State) (r : Nat) (out : Bool) : State :=
  if out && s.src.ctrl.capchk then s.raise .capacity
  else ((s.memWrite s.regionA.base s.regionA.len r).flags out (r == 0)).finish

/-- What STATUS reads as (10_state.md R25–R27; the reserved bits read 0, R38). -/
def Status.toWord (t : Status) : DWord :=
  BitVec.ofNat 64 (t.busy.toNat + 2 * t.done.toNat + 4 * t.err.toNat + 8 * t.ovr.toNat + 16 * t.c.toNat + 32 * t.z.toNat
    + 256 * t.ecode.toNat)

/-- What CTRL reads as (10_state.md R24, R38). -/
def Ctrl.toWord (t : Ctrl) : DWord := BitVec.ofNat 64 (t.capchk.toNat + 2 * t.ie.toNat)

/-- What a write of `d` leaves in CTRL (10_state.md R24; reserved bits are ignored, R38). -/
def Ctrl.ofWord (d : DWord) : Ctrl := { capchk := d.getLsbD 0, ie := d.getLsbD 1 }

/-- A host write to STATUS (10_state.md R25): writing 1 clears DONE (bit 1), ERR with ECODE (bit 2) and OVR (bit 3); every other
bit is read-only or reserved. -/
def State.writeStatus (s : State) (d : DWord) : State :=
  let s1 := if d.getLsbD 2 then s.clearErr else s
  { s1 with
    status :=
      { s1.status with
        done := s1.status.done && !d.getLsbD 1
        ovr := s1.status.ovr && !d.getLsbD 3 } }

/-- The level-sensitive interrupt output (60_exceptions.md R270). -/
def State.irq (s : State) : Bool := s.regs.ctrl.ie && (s.status.done || s.status.err)

end Sys2Proof.Machine
end

