-- ==== Sys2Proof/Machine/Bus.lean ====
section
/-! DEFINITION. The host's side of the block: the register map, reads, writes, refused accesses, and the reset input
(10_state.md R22; 20_memory.md R71–R82; 70_reset_and_hazards.md R290). -/

namespace Sys2Proof.Machine

/-- What an aligned window offset names (10_state.md R22; 20_memory.md R72, R74). -/
inductive Target where
  | id
  | ctrl
  | status
  | cmd
  | p
  | mpn
  | lmask
  | abase
  | alen
  | cbase
  | clen
  | bval
  | opa
  | opb
  | rlo
  | rhi
  | passes
  | einfo
  | slot (i : Nat)
  | reserved
deriving DecidableEq, Repr

/-- The register map (10_state.md R22). -/
def regMap : List (Nat × Target) :=
  [(0x000, .id), (0x008, .ctrl), (0x010, .status), (0x018, .cmd), (0x020, .p), (0x028, .mpn), (0x030, .lmask),
   (0x038, .abase), (0x040, .alen), (0x048, .cbase), (0x050, .clen), (0x058, .bval), (0x060, .opa), (0x068, .opb),
   (0x070, .rlo), (0x078, .rhi), (0x080, .passes), (0x088, .einfo)]

/-- The target of an aligned offset: a register, else the slot of a limb (20_memory.md R72), else reserved (R74). -/
def target (c : Config) (off : Nat) : Target :=
  match regMap.lookup off with
  | some t => t
  | none => if slotAddr 0 ≤ off ∧ off < slotAddr c.depth then .slot ((off - slotAddr 0) / 8) else .reserved

/-- ID (10_state.md R23). -/
def idWord (c : Config) : DWord :=
  BitVec.ofNat 64 (c.W + 2 ^ 8 * 0x01 + 2 ^ 16 * 0x4D50 + 2 ^ 32 * c.depth)

/-- What a target reads as while BUSY = 0, and what every stable target reads as at any time (10_state.md R22–R38;
20_memory.md R72, R74). -/
def State.current (s : State) : Target → DWord
  | .id => idWord s.cfg
  | .ctrl => s.regs.ctrl.toWord
  | .status => s.status.toWord
  | .cmd => s.cmd.setWidth 64
  | .p => s.regs.p.setWidth 64
  | .mpn => BitVec.ofNat 64 (mpn s.cfg s.regs.p.toNat)
  | .lmask => BitVec.ofNat 64 (lmask s.cfg s.regs.p.toNat)
  | .abase => s.regs.abase.setWidth 64
  | .alen => s.regs.alen.setWidth 64
  | .cbase => s.regs.cbase.setWidth 64
  | .clen => s.regs.clen.setWidth 64
  | .bval => BitVec.ofNat 64 (limbVal s.cfg s.regs.bval)
  | .opa => BitVec.ofNat 64 (limbVal s.cfg s.regs.opa)
  | .opb => BitVec.ofNat 64 (limbVal s.cfg s.regs.opb)
  | .rlo => BitVec.ofNat 64 (limbVal s.cfg s.rlo)
  | .rhi => BitVec.ofNat 64 (limbVal s.cfg s.rhi)
  | .passes => s.passes.setWidth 64
  | .einfo => s.einfo.setWidth 64
  | .slot i => BitVec.ofNat 64 (s.limb i)
  | .reserved => 0

/-- What a target reads as while BUSY = 1, from an unspecified value `u` (20_memory.md R81(c), (d);
93_implementation_defined.md I6): an unspecified value of the register's width for LM, RLO, RHI, PASSES and the two flags,
the current value for every other. -/
def State.whileBusy (s : State) (u : DWord) : Target → DWord
  | .slot _ => BitVec.ofNat 64 (limbVal s.cfg u)
  | .rlo => BitVec.ofNat 64 (limbVal s.cfg u)
  | .rhi => BitVec.ofNat 64 (limbVal s.cfg u)
  | .passes => (u.setWidth 32).setWidth 64
  | .status => Status.toWord { s.status with c := u.getLsbD 0, z := u.getLsbD 1 }
  | t => s.current t

/-- The bus's answer to a host access (log 5). -/
def State.respond (s : State) (r : Response) : State := { s with response := r }

/-- A permitted read: the answer is on the bus and the block's state does not change (20_memory.md R76). -/
def State.hostRead (s : State) (t : Target) : State :=
  if s.status.busy then
    { s.respond (.data (s.whileBusy (Config.freeRead s.draws) t)) with draws := s.draws + 1 }
  else s.respond (.data (s.current t))

/-- A write to CMD (20_memory.md R82). -/
def State.issue (s : State) (d : DWord) : State :=
  if s.status.busy || s.status.err then s.setOvr else s.accept d

/-- A write that is not dropped, to any target but STATUS and CMD: the register keeps its used bits (10_state.md R24, R28,
R30–R32, R37), the slot its limb (20_memory.md R72); read-only and reserved targets ignore it (10_state.md R38,
20_memory.md R74). -/
def State.writeTarget (s : State) (t : Target) (d : DWord) : State :=
  match t with
  | .ctrl => { s with regs := { s.regs with ctrl := Ctrl.ofWord d } }
  | .p => { s with regs := { s.regs with p := d.setWidth 32 } }
  | .abase => { s with regs := { s.regs with abase := d.setWidth 32 } }
  | .alen => { s with regs := { s.regs with alen := d.setWidth 32 } }
  | .cbase => { s with regs := { s.regs with cbase := d.setWidth 32 } }
  | .clen => { s with regs := { s.regs with clen := d.setWidth 32 } }
  | .bval => { s with regs := { s.regs with bval := limbReg s.cfg d.toNat } }
  | .opa => { s with regs := { s.regs with opa := limbReg s.cfg d.toNat } }
  | .opb => { s with regs := { s.regs with opb := limbReg s.cfg d.toNat } }
  | .slot i => s.setLimb i d.toNat
  | .id | .status | .cmd | .mpn | .lmask | .rlo | .rhi | .passes | .einfo | .reserved => s

/-- Whether a target is one whose writes are ignored: read-only or reserved (10_state.md R22, R38; 20_memory.md R74). -/
def Target.ignoresWrites : Target → Bool
  | .id | .mpn | .lmask | .rlo | .rhi | .passes | .einfo | .reserved => true
  | .ctrl | .status | .cmd | .p | .abase | .alen | .cbase | .clen | .bval | .opa | .opb | .slot _ => false

/-- A permitted write of `d` (20_memory.md R76, R81, R82): STATUS at any time; while BUSY = 1 any other write is dropped,
whatever its target, and sets OVR (20_memory.md R81(a), 60_exceptions.md R263; log 9); else the target takes it. -/
def State.hostWrite (s : State) (t : Target) (d : DWord) : State :=
  match t with
  | .status => s.writeStatus d
  | t => if s.status.busy then s.setOvr else
    match t with
    | .cmd => s.issue d
    | t => s.writeTarget t d

/-- An access the bus refuses (20_memory.md R75, 60_exceptions.md R262): a bus error and the host-side fault, nothing of the
block's state. -/
def State.refuseAccess (s : State) : Access → State
  | .read _ _ => { s.respond (.busErrorRead (Config.freeRead s.draws)) with draws := s.draws + 1, hostFault := true }
  | .write _ _ _ => { s.respond .busErrorWrite with hostFault := true }

/-- The host address of an access. -/
def Access.addr : Access → Nat
  | .read a _ => a
  | .write a _ _ => a

/-- The width of an access, in bytes. -/
def Access.bytes : Access → Nat
  | .read _ n => n
  | .write _ n _ => n

/-- Whether a host address lies in the block's window (20_memory.md R70, R71). -/
def inWindow (c : Config) (addr : Nat) : Bool := decide (c.hostBase ≤ addr ∧ addr < c.hostBase + 2 ^ 24)

/-- Whether the bus permits an access at window offset `off` of `n` bytes: 64 bits wide and aligned (20_memory.md R75). -/
def permitted (off n : Nat) : Bool := decide (n = 8 ∧ off % 8 = 0)

/-- A host access (20_memory.md R71, R75, R76). -/
def State.access (s : State) (a : Access) : Answer :=
  if inWindow s.cfg a.addr then
    if permitted (a.addr - s.cfg.hostBase) a.bytes then
      match a with
      | .read x _ => .next (s.hostRead (target s.cfg (x - s.cfg.hostBase)))
      | .write x _ d =>
        .next ((s.hostWrite (target s.cfg (x - s.cfg.hostBase)) d).respond .ack)
    else .next (s.refuseAccess a)
  else .fault (.outsideWindow a.addr)

/-- The reset input (70_reset_and_hazards.md R290, R291): every register of the block at its reset value, the latch empty,
every limb unspecified anew. What is not the block's stays: the build, the bus's last answer, the host-side fault (never
cleared, 60_exceptions.md R262), the events to come (log 12). -/
def State.resetInput (s : State) : State :=
  { State.resetOf s.cfg with
    epoch := s.epoch + 1
    draws := s.draws
    inbox := s.inbox
    response := s.response
    hostFault := s.hostFault }

/-- What a host that views the window as bytes finds at offset `x` (20_memory.md R73): byte `x mod 8` of the 64-bit value at
the aligned offset below it. -/
def State.windowByte (s : State) (x : Nat) : Byte :=
  (s.current (target s.cfg (8 * (x / 8)))).extractLsb' (8 * (x % 8)) 8

end Sys2Proof.Machine
end

