-- ==== Sys2Proof/Machine/Housekeeping.lean ====
section
/-! DEFINITION. The housekeeping commands: NOP, CLR (44_housekeeping.md). -/

namespace Sys2Proof.Machine

/-- NOP: nothing but the protocol bits (44_housekeeping.md R240). -/
def execNop (s : State) : Answer := .next s.finish

/-- CLR, zero region C (44_housekeeping.md R242). -/
def execClr (s : State) : Answer :=
  .next (s.guarded (s.destinationError 0) fun t => t.writeResult 0)

end Sys2Proof.Machine
end

