-- ==== Sys2Proof/Machine/Kernel.lean ====
section
/-! DEFINITION. The limb kernel: KADD, KSUB, KMUL, KODD (40_limb_kernel.md). None of them touches LM, C, Z or PASSES. -/

namespace Sys2Proof.Machine

/-- KADD, wide add (40_limb_kernel.md R130). -/
def execKadd (s : State) : Answer :=
  .next (s.setPair ((s.opA + s.opB) % 2 ^ s.cfg.W) ((s.opA + s.opB) >>> s.cfg.W)).finish

/-- `~b mod 2^W` for a limb b (00_scope.md R10). -/
def complement (c : Config) (b : Nat) : Nat := 2 ^ c.W - 1 - b

/-- KSUB, wide subtract with the boolean borrow (40_limb_kernel.md R132). -/
def execKsub (s : State) : Answer :=
  .next
    (s.setPair ((s.opA + (complement s.cfg s.opB + 1) % 2 ^ s.cfg.W) % 2 ^ s.cfg.W)
      (if s.opA < s.opB then 1 else 0)).finish

/-- KMUL, wide multiply (40_limb_kernel.md R134). -/
def execKmul (s : State) : Answer :=
  .next (s.setPair ((s.opA * s.opB) % 2 ^ s.cfg.W) ((s.opA * s.opB) >>> s.cfg.W)).finish

/-- The W-bit window at bit `off` of the limb pair (b, a) (40_limb_kernel.md R136). -/
def oddWindow (w a b off : Nat) : Nat := ((a >>> off) ||| (b <<< (w - off))) % 2 ^ w

/-- BADOFF (60_exceptions.md R253). -/
def offsetError (c : Config) (off : Nat) : Option ErrCode :=
  if c.W ≤ off then some .badOff else none

/-- KODD, odd-offset window extract (40_limb_kernel.md R136). -/
def execKodd (off : Nat) (s : State) : Answer :=
  .next (s.guarded (offsetError s.cfg off) fun t => (t.setPair (oddWindow t.cfg.W t.opA t.opB off) 0).finish)

end Sys2Proof.Machine
end

