-- ==== Sys2Proof/Machine/Linear.lean ====
section
/-! DEFINITION. The carry-propagating linear operations: ADDL, SUBL (41_linear_ops.md). -/

namespace Sys2Proof.Machine

/-- ADDL, A := A + b in place (41_linear_ops.md R160). -/
def execAddl (s : State) : Answer :=
  .next (s.guarded s.inPlaceError fun t =>
    t.writeInPlace ((t.regionVal t.regionA + t.bLimb) % t.regionA.cap t.cfg)
      (decide (t.regionA.cap t.cfg ≤ t.regionVal t.regionA + t.bLimb)))

/-- SUBL, A := A − b in place; a negative result wraps by two's complement over the region's limbs (41_linear_ops.md R162). -/
def execSubl (s : State) : Answer :=
  .next (s.guarded s.inPlaceError fun t =>
    t.writeInPlace (((t.regionVal t.regionA : Int) - (t.bLimb : Int)) % (t.regionA.cap t.cfg : Int)).toNat
      (decide ((t.regionVal t.regionA : Int) - (t.bLimb : Int) < 0)))

end Sys2Proof.Machine
end

