-- ==== Sys2Proof/Machine/Reducer.lean ====
section
/-! DEFINITION. The Mersenne reducer: the fold pass, RED, RPASS, MKMP (43_reducer.md). -/

namespace Sys2Proof.Machine

/-- PASS_p, one fold pass with the all-ones collapse (43_reducer.md R200). -/
def foldPass (p v : Nat) : Nat :=
  if v % 2 ^ p + v >>> p = mpValue p then 0 else v % 2 ^ p + v >>> p

/-- RED's loop "while v ≥ 2^p − 1" (43_reducer.md R204): the value and the number of passes, from a pass count of `k`. `fuel`
makes the recursion structural; a fuel of `v` is never exhausted, since every pass of the loop lowers the value
(R202(b); log 15). -/
def foldLoop (p : Nat) : Nat → Nat → Nat → Nat × Nat
  | 0, v, k => (v, k)
  | fuel + 1, v, k => if mpValue p ≤ v then foldLoop p fuel (foldPass p v) (k + 1) else (v, k)

/-- The fixpoint RED reaches from `v`, and in how many passes (43_reducer.md R204). -/
def reduce (p v : Nat) : Nat × Nat := foldLoop p v v 0

/-- RED, reduce region A modulo 2^p − 1 into region C (43_reducer.md R204). -/
def execRed (s : State) : Answer :=
  .next (s.guarded (s.exponentError <|> s.sourceDestinationError (mpn s.cfg s.exponent)) fun t =>
    (t.setPasses (reduce t.exponent (t.regionVal t.regionA)).2).writeResult (reduce t.exponent (t.regionVal t.regionA)).1)

/-- RPASS, one fold pass of region A into region C (43_reducer.md R206). -/
def execRpass (s : State) : Answer :=
  .next (s.guarded (s.exponentError <|> s.sourceDestinationError s.regionA.len) fun t =>
    (t.setPasses 1).writeResult (foldPass t.exponent (t.regionVal t.regionA)))

/-- MKMP, write the modulus to region C (43_reducer.md R208). -/
def execMkmp (s : State) : Answer :=
  .next (s.guarded (s.exponentError <|> s.destinationError (mpn s.cfg s.exponent)) fun t =>
    t.writeResult (mpValue t.exponent))

end Sys2Proof.Machine
end

