-- ==== Sys2Proof/Machine/Squarer.lean ====
section
/-! DEFINITION. The naive squarer: SQR (42_squarer.md). -/

namespace Sys2Proof.Machine

/-- SQR, C := A² with every limb of region C written (42_squarer.md R180). -/
def execSqr (s : State) : Answer :=
  .next (s.guarded (s.sourceDestinationError (2 * s.regionA.len)) fun t =>
    t.writeResult (t.regionVal t.regionA * t.regionVal t.regionA))

end Sys2Proof.Machine
end

