-- ==== Sys2Proof/Machine/Dispatch.lean ====
section
/-! DEFINITION. What each command does when the block performs it. -/

namespace Sys2Proof.Machine

/-- The effect of a command on the state, completion included (00_scope.md R11). -/
def exec (i : Instr) (s : State) : Host.Outcome State Fault Refusal :=
  match i with
  | .nop => Sys2Proof.Machine.execNop s
  | .kadd => Sys2Proof.Machine.execKadd s
  | .ksub => Sys2Proof.Machine.execKsub s
  | .kmul => Sys2Proof.Machine.execKmul s
  | .kodd off => Sys2Proof.Machine.execKodd off s
  | .addl => Sys2Proof.Machine.execAddl s
  | .subl => Sys2Proof.Machine.execSubl s
  | .sqr => Sys2Proof.Machine.execSqr s
  | .red => Sys2Proof.Machine.execRed s
  | .rpass => Sys2Proof.Machine.execRpass s
  | .mkmp => Sys2Proof.Machine.execMkmp s
  | .clr => Sys2Proof.Machine.execClr s

end Sys2Proof.Machine
end

