-- ==== Sys2Proof/Machine/Turn.lean ====
section
/-! DEFINITION. The block's turn, and what one event does. -/

namespace Sys2Proof.Machine

/-- The block's turn (10_state.md R40): it performs the command in flight and completes it. Decoding happens here, not at
acceptance; an illegal word completes with ILLEGAL_CMD (20_memory.md R82, 30_encoding.md R104). With no command in flight
the block is idle and holds all state (60_exceptions.md R276). -/
def State.blockTurn (s : State) : Answer :=
  match s.fetch with
  | none => .next s
  | some d =>
    match decode d with
    | .error _ => .next (s.raise .illegalCmd)
    | .ok i => exec i s

/-- What one event does (20_memory.md R80: one at a time, each taking effect before the next). -/
def State.handle (s : State) : Event → Answer
  | .access a => s.access a
  | .blockTurn => s.blockTurn
  | .reset => .next s.resetInput

end Sys2Proof.Machine
end

