-- ==== Sys2Proof/Machine/Step.lean ====
section
/-! DEFINITION. One step of the machine. -/

namespace Sys2Proof.Machine

/-- One step (log 4): the next event of the inbox; with none left, the block's turn, so that every accepted command
completes (70_reset_and_hazards.md R310). -/
def step (s : State) : Host.Outcome State Fault Refusal :=
  match s.inbox with
  | [] => s.blockTurn
  | e :: rest => State.handle { s with inbox := rest } e

/-- The state in which the host's write of the low `nbits` bits of `w` to CMD has just been accepted and the block's turn is
next, so that the very next step performs it (20_memory.md R82; log 6). With no event to come the turn is the block's
anyway. -/
def State.withFetchWord (s : State) (nbits w : Nat) : State :=
  { s.accept (BitVec.ofNat 64 (w % 2 ^ nbits)) with
    inbox := if s.inbox.isEmpty then [] else .blockTurn :: s.inbox }

end Sys2Proof.Machine
end

