-- ==== Sys2Proof/Machine/Limbwise.lean ====
section
/-! DEFINITION. The limb-serial algorithms the spec gives as informative (41_linear_ops.md R160, R161; 42_squarer.md R182;
43_reducer.md R201), over lists of limbs, least significant first. No command uses them: the commands compute the values of
R160, R162, R180 and R200, and statements say that these algorithms yield the same limbs (log 20). -/

namespace Sys2Proof.Machine

/-- The number a list of limbs holds (00_scope.md R9). -/
def limbsVal (w : Nat) : List Nat → Nat
  | [] => 0
  | x :: xs => x + 2 ^ w * limbsVal w xs

/-- The limbs of a region. -/
def State.limbs (s : State) (r : Region) : List Nat := (List.range r.len).map fun k => s.limb (r.base + k)

/-- The upward carry scan (41_linear_ops.md R160, R161): limbs at the maximum wrap to 0, the first that is not is incremented;
the flag says that the carry left the top limb. -/
def carryScan (w : Nat) : List Nat → List Nat × Bool
  | [] => ([], true)
  | x :: xs =>
    if x = 2 ^ w - 1 then (0 :: (carryScan w xs).1, (carryScan w xs).2) else ((x + 1) :: xs, false)

/-- Add-limb: a wide add into limb 0, then the scan if a carry resulted (41_linear_ops.md R160, R161). -/
def addSerial (w : Nat) : List Nat → Nat → List Nat × Bool
  | [], _ => ([], false)
  | x :: xs, b =>
    if x + b < 2 ^ w then ((x + b) :: xs, false)
    else (((x + b) % 2 ^ w) :: (carryScan w xs).1, (carryScan w xs).2)

/-- The upward borrow scan, symmetric to `carryScan` (41_linear_ops.md R162). -/
def borrowScan (w : Nat) : List Nat → List Nat × Bool
  | [] => ([], true)
  | x :: xs =>
    if x = 0 then ((2 ^ w - 1) :: (borrowScan w xs).1, (borrowScan w xs).2) else ((x - 1) :: xs, false)

/-- Sub-limb: a wide subtract from limb 0, then the scan if a borrow resulted (41_linear_ops.md R162). -/
def subSerial (w : Nat) : List Nat → Nat → List Nat × Bool
  | [], _ => ([], false)
  | x :: xs, b =>
    if b ≤ x then ((x - b) :: xs, false)
    else ((x + 2 ^ w - b) :: (borrowScan w xs).1, (borrowScan w xs).2)

/-- A carry rippled upward until it is zero (42_squarer.md R182). -/
def rippleAdd (w : Nat) : List Nat → Nat → List Nat
  | [], _ => []
  | x :: xs, carry =>
    if carry = 0 then x :: xs else ((x + carry) % 2 ^ w) :: rippleAdd w xs ((x + carry) / 2 ^ w)

/-- The pair (lo, hi) added into a list of limbs at index `k`, carries rippled (42_squarer.md R182). -/
def addPairAt (w : Nat) : List Nat → Nat → Nat → Nat → List Nat
  | [], _, _, _ => []
  | x :: xs, 0, lo, hi => ((x + lo) % 2 ^ w) :: rippleAdd w xs (hi + (x + lo) / 2 ^ w)
  | x :: xs, k + 1, lo, hi => x :: addPairAt w xs k lo hi

/-- The schoolbook double loop (42_squarer.md R182): from zeros, for each pair (i, j) the KMUL pair of `A[i]·A[j]` is added at
limb i + j. -/
def schoolbook (w : Nat) (a : List Nat) : List Nat :=
  ((List.range a.length).flatMap fun i => (List.range a.length).map fun j => (i, j)).foldl
    (fun acc ij => addPairAt w acc (ij.1 + ij.2) (a.getD ij.1 0 * a.getD ij.2 0 % 2 ^ w) (a.getD ij.1 0 * a.getD ij.2 0 / 2 ^ w))
    (List.replicate (2 * a.length) 0)

/-- Ai of 43_reducer.md R201: limb i of the operand's low p bits. -/
def foldLowLimb (c : Config) (p : Nat) (a : List Nat) (i : Nat) : Nat :=
  if i + 1 < mpn c p then a.getD i 0
  else if i + 1 = mpn c p then a.getD i 0 &&& lmask c p
  else 0

/-- Aip of 43_reducer.md R201: limb i of the operand shifted right by p, a KODD window. -/
def foldHighLimb (c : Config) (p : Nat) (a : List Nat) (i : Nat) : Nat :=
  oddWindow c.W (a.getD (i + p / c.W) 0) (a.getD (i + p / c.W + 1) 0) (p % c.W)

/-- The sum r of 43_reducer.md R201, over the limbs from index `i` on, `n` of them. -/
def foldSum (c : Config) (p : Nat) (a : List Nat) : Nat → Nat → Nat
  | _, 0 => 0
  | i, n + 1 => foldLowLimb c p a i + foldHighLimb c p a i + 2 ^ c.W * foldSum c p a (i + 1) n

/-- The all-ones test of 43_reducer.md R201: limbs 0 … MpN−2 are 2^W − 1, limb MpN−1 is LMASK, every higher limb is 0. -/
def allOnes (c : Config) (p r : Nat) : Bool :=
  ((List.range (mpn c p)).all fun i =>
    (r >>> (i * c.W)) % 2 ^ c.W == (if i + 1 < mpn c p then 2 ^ c.W - 1 else lmask c p))
  && r >>> (mpn c p * c.W) == 0

/-- One fold pass in limb form (43_reducer.md R201). -/
def limbPass (c : Config) (p : Nat) (a : List Nat) : Nat :=
  if allOnes c p (foldSum c p a 0 a.length) then 0 else foldSum c p a 0 a.length

end Sys2Proof.Machine
end

