-- ==== Sys2Proof/Machine/Listing.lean ====
section
/-! DEFINITION. The listing syntax's lines that are host accesses (30_encoding.md R106, R107), as events. WAIT and CHECK loop or
branch in the host and are no accesses of a fixed number. -/

namespace Sys2Proof.Machine

/-- The window offset of a register or slot (10_state.md R22; 20_memory.md R72); for `reserved`, the first reserved offset. -/
def Target.offset : Target → Nat
  | .id => 0x000
  | .ctrl => 0x008
  | .status => 0x010
  | .cmd => 0x018
  | .p => 0x020
  | .mpn => 0x028
  | .lmask => 0x030
  | .abase => 0x038
  | .alen => 0x040
  | .cbase => 0x048
  | .clen => 0x050
  | .bval => 0x058
  | .opa => 0x060
  | .opb => 0x068
  | .rlo => 0x070
  | .rhi => 0x078
  | .passes => 0x080
  | .einfo => 0x088
  | .slot i => slotAddr i
  | .reserved => 0x090

/-- `WR t, v` (30_encoding.md R106). -/
def wr (c : Config) (t : Target) (v : DWord) : Event := .access (.write (c.hostBase + t.offset) 8 v)

/-- `RD t` (30_encoding.md R106). -/
def rd (c : Config) (t : Target) : Event := .access (.read (c.hostBase + t.offset) 8)

/-- `ISSUE i` (30_encoding.md R107). -/
def issueEvent (c : Config) (i : Instr) : Event := wr c .cmd (encode i)

/-- `SETREG A=base,len` (30_encoding.md R107). -/
def setRegA (c : Config) (base len : DWord) : List Event := [wr c .abase base, wr c .alen len]

/-- `SETREG C=base,len` (30_encoding.md R107). -/
def setRegC (c : Config) (base len : DWord) : List Event := [wr c .cbase base, wr c .clen len]

end Sys2Proof.Machine
end

