-- ==== Sys2Proof/Safety.lean ====
section
/-! DEFINITION. What claims are about: the invariant of the machine, the host that keeps the protocol, and how much of a state a
command leaves alone. -/

namespace Sys2Proof.Machine

/-- What holds of every state a run from reset reaches, whatever the host does. -/
structure State.Inv (s : State) : Prop where
  /-- the build is one the spec allows (00_scope.md R5) -/
  build : s.cfg.wellFormed = true
  /-- the memory is in its canonical form -/
  canonical : s.mem.wf
  /-- only bytes of limbs of LM are written (20_memory.md R72) -/
  inLM : ∀ cell ∈ s.mem, (Region.mk 0 s.cfg.depth).hasByte s.cfg cell.1 = true
  /-- the registers of width W hold W bits (10_state.md R37) -/
  widthRegs : s.regs.bval.toNat < 2 ^ s.cfg.W ∧ s.regs.opa.toNat < 2 ^ s.cfg.W ∧ s.regs.opb.toNat < 2 ^ s.cfg.W
  /-- and so do the result registers -/
  widthResults : s.rlo.toNat < 2 ^ s.cfg.W ∧ s.rhi.toNat < 2 ^ s.cfg.W
  /-- BUSY says whether a command is in flight (10_state.md R40) -/
  busyLatch : s.status.busy = s.pend.isSome
  /-- the snapshot equals the live registers, and CMD the low bits of the latch's data (10_state.md R36, R40) -/
  snapshot : ∀ q, s.pend = some q → q.snap = s.regs ∧ s.cmd = q.data.setWidth 16
  /-- no command is in flight with DONE or ERR set (10_state.md R25, 20_memory.md R82) -/
  busyAlone : s.status.busy = true → s.status.done = false ∧ s.status.err = false
  /-- at most one of DONE and ERR (60_exceptions.md R271) -/
  doneOrErr : ¬ (s.status.done = true ∧ s.status.err = true)
  /-- ECODE is 0 exactly while ERR = 0, and at most 7 (10_state.md R27, 60_exceptions.md R252) -/
  errCode : (s.status.err = true ↔ s.status.ecode ≠ 0) ∧ s.status.ecode.toNat ≤ 7

/-- An event that stays within the block's window, so that it is no fault of the model (20_memory.md R70, R71). -/
def Event.reachesBlock (c : Config) : Event → Bool
  | .access a => inWindow c a.addr
  | .blockTurn => true
  | .reset => true

/-- A target whose reads are specified while BUSY = 1 (20_memory.md R81(c), (d)); a STATUS read is, but for the two flags. -/
def Target.readableWhileBusy : Target → Bool
  | .slot _ | .rlo | .rhi | .passes => false
  | .id | .ctrl | .status | .cmd | .p | .mpn | .lmask | .abase | .alen | .cbase | .clen | .bval | .opa | .opb | .einfo
  | .reserved => true

/-- An event that keeps the host's duties: only permitted accesses (20_memory.md R75), nothing that the completion hazard
forbids while BUSY = 1 (70_reset_and_hazards.md R300), and no command while ERR = 1 (R305). -/
def State.dutiful (s : State) : Event → Bool
  | .access (.read addr n) =>
    inWindow s.cfg addr && permitted (addr - s.cfg.hostBase) n
      && (!s.status.busy || (target s.cfg (addr - s.cfg.hostBase)).readableWhileBusy)
  | .access (.write addr n _) =>
    inWindow s.cfg addr && permitted (addr - s.cfg.hostBase) n
      && (!s.status.busy || target s.cfg (addr - s.cfg.hostBase) == .status)
      && (!s.status.err || target s.cfg (addr - s.cfg.hostBase) != .cmd)
  | .blockTurn => true
  | .reset => true

/-- A command's completion without error as the protocol shows it (60_exceptions.md R258): the latch empty, BUSY 0, DONE 1, and
ERR, OVR and ECODE as before. -/
def State.completedFrom (t s : State) : Prop :=
  t.pend = none ∧ t.status.busy = false ∧ t.status.done = true ∧ t.status.err = s.status.err
    ∧ t.status.ovr = s.status.ovr ∧ t.status.ecode = s.status.ecode

/-- `t` differs from `s` in the protocol bits BUSY and DONE, the latch, RLO and RHI alone. -/
def State.sameButPair (t s : State) : Prop :=
  t = { s with
    rlo := t.rlo, rhi := t.rhi, pend := t.pend
    status := { s.status with busy := t.status.busy, done := t.status.done } }

/-- `t` differs from `s` in the protocol bits, the latch, the flags C and Z, and bytes of the limbs of region `r` alone. -/
def State.sameButRegion (t s : State) (r : Region) : Prop :=
  t = { s with
    mem := t.mem, pend := t.pend
    status := { s.status with busy := t.status.busy, done := t.status.done, c := t.status.c, z := t.status.z } }
  ∧ ∀ x, r.hasByte s.cfg x = false → t.byteAt x = s.byteAt x

/-- As `sameButRegion`, and PASSES may differ too. -/
def State.sameButRegionAndPasses (t s : State) (r : Region) : Prop :=
  t = { s with
    mem := t.mem, pend := t.pend, passes := t.passes
    status := { s.status with busy := t.status.busy, done := t.status.done, c := t.status.c, z := t.status.z } }
  ∧ ∀ x, r.hasByte s.cfg x = false → t.byteAt x = s.byteAt x

/-! ### Which error a command reports -/

/-- The commands that read P (30_encoding.md R102). -/
def readsP : Instr → Bool
  | .red | .rpass | .mkmp => true
  | .nop | .kadd | .ksub | .kmul | .kodd _ | .addl | .subl | .sqr | .clr => false

/-- The commands that use region A (30_encoding.md R102). -/
def usesA : Instr → Bool
  | .addl | .subl | .sqr | .red | .rpass => true
  | .nop | .kadd | .ksub | .kmul | .kodd _ | .mkmp | .clr => false

/-- The commands that use region C (30_encoding.md R102). -/
def usesC : Instr → Bool
  | .sqr | .red | .rpass | .mkmp | .clr => true
  | .nop | .kadd | .ksub | .kmul | .kodd _ | .addl | .subl => false

/-- How many limbs region C must hold (60_exceptions.md R255). -/
def neededLimbs (i : Instr) (s : State) : Nat :=
  match i with
  | .sqr => 2 * s.regionA.len
  | .red | .mkmp => mpn s.cfg s.exponent
  | .rpass => s.regionA.len
  | .nop | .kadd | .ksub | .kmul | .kodd _ | .addl | .subl | .clr => 0

/-- BADOFF's cause (60_exceptions.md R253). -/
def offsetCause (i : Instr) (s : State) : Bool :=
  match i with
  | .kodd off => decide (s.cfg.W ≤ off)
  | .nop | .kadd | .ksub | .kmul | .addl | .subl | .sqr | .red | .rpass | .mkmp | .clr => false

/-- CAPACITY's cause (60_exceptions.md R260). -/
def capacityCause (i : Instr) (s : State) : Bool :=
  match i with
  | .addl => s.src.ctrl.capchk && decide (2 ^ (s.regionA.len * s.cfg.W) ≤ s.regionVal s.regionA + s.bLimb)
  | .subl => s.src.ctrl.capchk && decide (s.regionVal s.regionA < s.bLimb)
  | .nop | .kadd | .ksub | .kmul | .kodd _ | .sqr | .red | .rpass | .mkmp | .clr => false

/-- The cause of each error for a decoded command (60_exceptions.md R253–R257, R260). A decoded command's word is legal, so
ILLEGAL_CMD has no cause here. -/
def causeOf (e : ErrCode) (i : Instr) (s : State) : Bool :=
  match e with
  | .illegalCmd => false
  | .badOff => offsetCause i s
  | .badP => readsP i && decide (s.exponent < 2)
  | .length =>
    (usesA i && decide (s.regionA.len = 0))
      || (usesC i && (decide (s.regionC.len = 0) || decide (s.regionC.len < neededLimbs i s)))
  | .range =>
    (usesA i && decide (s.cfg.depth < s.regionA.base + s.regionA.len))
      || (usesC i && decide (s.cfg.depth < s.regionC.base + s.regionC.len))
  | .overlap =>
    usesA i && usesC i
      && decide (s.regionA.base < s.regionC.base + s.regionC.len ∧ s.regionC.base < s.regionA.base + s.regionA.len)
  | .capacity => capacityCause i s

/-- The order in which errors are reported (60_exceptions.md R259). -/
def reportOrder : List ErrCode := [.illegalCmd, .badOff, .badP, .length, .range, .overlap, .capacity]

/-- The one error a decoded command reports, if any: the first in the order whose cause holds (60_exceptions.md R259). -/
def reportedError (i : Instr) (s : State) : Option ErrCode := reportOrder.find? fun e => causeOf e i s

/-! ### When the memory commands run without error -/

/-- Region A is one that ADDL and SUBL accept (60_exceptions.md R255, R256). -/
def State.inPlaceReady (s : State) : Prop :=
  s.regionA.len ≠ 0 ∧ s.regionA.base + s.regionA.len ≤ s.cfg.depth

/-- Region C is one that MKMP and CLR accept, for a result of `need` limbs (60_exceptions.md R255, R256). -/
def State.destinationReady (s : State) (need : Nat) : Prop :=
  s.regionC.len ≠ 0 ∧ need ≤ s.regionC.len ∧ s.regionC.base + s.regionC.len ≤ s.cfg.depth

/-- Regions A and C are ones that SQR, RED and RPASS accept, for a result of `need` limbs (60_exceptions.md R255–R257):
nonempty, long enough, in range, disjoint. -/
def State.sourceDestinationReady (s : State) (need : Nat) : Prop :=
  s.inPlaceReady ∧ s.destinationReady need
    ∧ (s.regionC.base + s.regionC.len ≤ s.regionA.base ∨ s.regionA.base + s.regionA.len ≤ s.regionC.base)

end Sys2Proof.Machine
end

