-- ==== Sys2Proof/Certificates/Slice0/Obligations.lean ====
section
/-! DEFINITION. The statements for the provers. `s.src` are the registers a command reads (the latch's snapshot, 10_state.md
R40), `s.opA`, `s.opB`, `s.bLimb`, `s.exponent`, `s.regionA`, `s.regionC` its operands, and `s.regionVal r` the value region
`r` holds. -/

open Sys2Proof Sys2Proof.Machine

/-! ### Encoding -/

/-- Decode and encode agree on every command (30_encoding.md R100, R103). -/
def Obligations.DecodeEncodeRoundTrip : Prop :=
  ∀ i : Instr, i.wellFormed = true → decode (encode i) = .ok i

/-- Every legal word is the encoding of the one well-formed command it decodes to: no bit of `d[63:0]` is dropped
(30_encoding.md R103). -/
def Obligations.LegalWordIsItsEncoding : Prop :=
  ∀ (d : DWord) (i : Instr), decode d = .ok i → i.wellFormed = true ∧ encode i = d

/-- 30_encoding.md R104, 60_exceptions.md R252, R258: exactly the words of cases (a) to (d) are illegal, and one in flight
completes with ILLEGAL_CMD (1) and no other effect. That an empty inbox is the block's turn is the model's form (log 4). -/
def Obligations.IllegalWordsComplete : Prop :=
  ∀ d : DWord,
    let illegal : Prop :=
      d.toNat % 2 ^ 8 ∉ [0x00, 0x01, 0x02, 0x03, 0x04, 0x10, 0x11, 0x20, 0x30, 0x31, 0x32, 0x40]
        ∨ d.toNat / 2 ^ 14 % 2 ^ 2 ≠ 0 ∨ d.toNat / 2 ^ 16 ≠ 0
        ∨ (d.toNat / 2 ^ 8 % 2 ^ 6 ≠ 0 ∧ d.toNat % 2 ^ 8 ≠ 0x04)
    let ended (s : State) : State := { s with
      status := { s.status with busy := false, err := true, ecode := 1 }
      einfo := d.setWidth 16
      pend := none }
    (¬ illegal → ∃ i, decode d = .ok i) ∧
    (illegal → ∀ (s : State) (q : Pending), s.pend = some q → q.data = d →
      (s.inbox = [] → step s = .next (ended s)) ∧
      (∀ rest, s.inbox = Event.blockTurn :: rest → step s = .next (ended { s with inbox := rest })))

/-- 30_encoding.md R108: the worked encodings. A sanity statement. -/
def Obligations.WorkedEncodings : Prop :=
  encode (.kodd 5) = 0x0504 ∧ encode .sqr = 0x0020 ∧ encode .red = 0x0030
    ∧ decode 0x0504 = .ok (.kodd 5) ∧ decode 0x0020 = .ok .sqr ∧ decode 0x0030 = .ok .red
    ∧ decode 0x0101 = .error .strayImmediate ∧ decode 0x0005 = .error .reservedOpcode

/-! ### The step -/

/-- A step runs the decoded command: with a command in flight whose word decodes to `i`, and the block's turn next, the step is
`exec i`, the inbox moved on (10_state.md R40, 20_memory.md R82, R85). That an empty inbox, too, is the block's turn is the
model's form (log 4). -/
def Obligations.StepRunsDecodedCommand : Prop :=
  ∀ (s : State) (q : Pending) (i : Instr) (rest : List Event),
    s.pend = some q → decode q.data = .ok i →
    (s.inbox = Event.blockTurn :: rest → step s = exec i { s with inbox := rest }) ∧
    (s.inbox = [] → step s = exec i s)

/-- A command issued by its encoding runs as itself on the next step (20_memory.md R82; log 6). -/
def Obligations.FetchWordRunsItsCommand : Prop :=
  ∀ (s : State) (i : Instr), i.wellFormed = true →
    step (s.withFetchWord 64 (encode i).toNat) = exec i (s.accept (encode i))

/-- 60_exceptions.md R276: an idle block with no event holds all state. -/
def Obligations.IdleHoldsState : Prop :=
  ∀ s : State, s.inbox = [] → s.pend = none → step s = .next s

/-- 60_exceptions.md R258, R251: every command answers a next state with the latch empty and BUSY 0, and either it completed
without error (DONE 1, the error fields and EINFO as before) or it wrote the error fields of R258 and nothing else. -/
def Obligations.EveryCommandEnds : Prop :=
  ∀ (i : Instr) (s : State), ∃ t, exec i s = .next t ∧
    ((t.completedFrom s ∧ t.einfo = s.einfo) ∨
      ∃ e : ErrCode, t = { s with
        status := { s.status with busy := false, err := true, ecode := e.code }
        einfo := s.word
        pend := none })

/-- 60_exceptions.md R259: of the errors whose causes hold (R253 to R257, R260) exactly the first in the order is reported,
with the code of R252 in ECODE and the low 16 bits of the latch's data in EINFO (R258; 10_state.md R35), and nothing else is
written; with none the command completes without error. -/
def Obligations.FirstErrorIsReported : Prop :=
  ∀ (i : Instr) (s : State),
    (∀ e, reportedError i s = some e → exec i s = .next (s.raise e)) ∧
    (∀ (e : ErrCode) (n : BitVec 8) (q : Pending),
      (e, n) ∈ [(ErrCode.badOff, 2), (.badP, 3), (.length, 4), (.range, 5), (.overlap, 6), (.capacity, 7)] →
      reportedError i s = some e → s.pend = some q →
      exec i s = .next { s with
        status := { s.status with busy := false, err := true, ecode := n }
        einfo := q.data.setWidth 16
        pend := none }) ∧
    reportedError i s ≠ some .illegalCmd ∧
    (reportedError i s = none → ∃ t, exec i s = .next t ∧ t.completedFrom s)

/-- 70_reset_and_hazards.md R310, the fairness assumption: whatever the host does within the window, when its events are used up
no command is in flight: each has completed, or a reset has abandoned it (R290). That the block then takes its turn is the
model's form (log 4). -/
def Obligations.AcceptedCommandCompletes : Prop :=
  ∀ s : State, s.Inv → (∀ e ∈ s.inbox, e.reachesBlock s.cfg = true) →
    ∃ t : State, Sys2Proof.core.run (s.inbox.length + 1) s = .next t ∧ t.status.busy = false ∧ t.pend = none

/-! ### Invariants -/

/-- Every step keeps the invariant. -/
def Obligations.StepKeepsInvariant : Prop :=
  ∀ s t : State, s.Inv → step s = .next t → t.Inv

/-- The reset state of every build the spec allows has the invariant; `State.reset` is one of them (its build is
the model's choice, log 1). -/
def Obligations.ResetHasInvariant : Prop :=
  (∀ c : Config, c.wellFormed = true → (State.resetOf c).Inv) ∧ State.reset.Inv

/-- Every step keeps the memory's canonical form (the model's, log 10), in every state whatever. -/
def Obligations.StepKeepsMemoryCanonical : Prop :=
  ∀ s t : State, s.mem.wf → step s = .next t → t.mem.wf

/-- 10_state.md R23: ID has the four fields, and no step changes it, reset included. -/
def Obligations.IdNeverChanges : Prop :=
  (∀ s : State, s.cfg.wellFormed = true →
    (s.current .id).toNat % 2 ^ 8 = s.cfg.W ∧ (s.current .id).toNat / 2 ^ 8 % 2 ^ 8 = 0x01
      ∧ (s.current .id).toNat / 2 ^ 16 % 2 ^ 16 = 0x4D50 ∧ (s.current .id).toNat / 2 ^ 32 = s.cfg.depth) ∧
  (∀ s t : State, step s = .next t → t.current .id = s.current .id)

/-- 60_exceptions.md R262, the model's record of it (log 7): the host-side fault is never cleared. -/
def Obligations.HostFaultIsSticky : Prop :=
  ∀ s t : State, step s = .next t → s.hostFault = true → t.hostFault = true

/-! ### The limb kernel -/

/-- 40_limb_kernel.md R130, R131: KADD. -/
def Obligations.KaddResult : Prop :=
  ∀ s : State, ∃ t, exec .kadd s = .next t
    ∧ t.rlo.toNat = (s.opA + s.opB) % 2 ^ s.cfg.W
    ∧ t.rhi.toNat = (s.opA + s.opB) / 2 ^ s.cfg.W
    ∧ t.rhi.toNat * 2 ^ s.cfg.W + t.rlo.toNat = s.opA + s.opB
    ∧ (t.rhi.toNat = 0 ∨ t.rhi.toNat = 1)
    ∧ t.completedFrom s ∧ t.sameButPair s

/-- 40_limb_kernel.md R132, R133: KSUB with the boolean borrow. -/
def Obligations.KsubResult : Prop :=
  ∀ s : State, ∃ t, exec .ksub s = .next t
    ∧ t.rlo.toNat = (s.opA + (2 ^ s.cfg.W - 1 - s.opB + 1) % 2 ^ s.cfg.W) % 2 ^ s.cfg.W
    ∧ t.rhi.toNat = (if s.opA < s.opB then 1 else 0)
    ∧ (t.rlo.toNat : Int) - t.rhi.toNat * 2 ^ s.cfg.W = (s.opA : Int) - s.opB
    ∧ t.completedFrom s ∧ t.sameButPair s

/-- 40_limb_kernel.md R134, R135: KMUL. -/
def Obligations.KmulResult : Prop :=
  ∀ s : State, ∃ t, exec .kmul s = .next t
    ∧ t.rlo.toNat = (s.opA * s.opB) % 2 ^ s.cfg.W
    ∧ t.rhi.toNat = (s.opA * s.opB) / 2 ^ s.cfg.W
    ∧ t.rhi.toNat * 2 ^ s.cfg.W + t.rlo.toNat = s.opA * s.opB
    ∧ t.rhi.toNat ≤ 2 ^ s.cfg.W - 2
    ∧ t.completedFrom s ∧ t.sameButPair s

/-- 40_limb_kernel.md R136: KODD within the width, and BADOFF beyond it. -/
def Obligations.KoddResult : Prop :=
  ∀ (s : State) (off : Nat),
    (off < s.cfg.W → ∃ t, exec (.kodd off) s = .next t
      ∧ t.rlo.toNat = ((s.opA >>> off) ||| (s.opB <<< (s.cfg.W - off))) % 2 ^ s.cfg.W
      ∧ t.rlo.toNat = ((s.opB * 2 ^ s.cfg.W + s.opA) >>> off) % 2 ^ s.cfg.W
      ∧ (off = 0 → t.rlo.toNat = s.opA)
      ∧ t.rhi.toNat = 0
      ∧ t.completedFrom s ∧ t.sameButPair s) ∧
    (s.cfg.W ≤ off → exec (.kodd off) s = .next (s.raise .badOff))

/-! ### Linear operations -/

/-- 41_linear_ops.md R160, R163: ADDL when no error is raised. -/
def Obligations.AddlResult : Prop :=
  ∀ s : State, s.inPlaceReady →
    (s.regionVal s.regionA + s.bLimb < 2 ^ (s.regionA.len * s.cfg.W) ∨ s.src.ctrl.capchk = false) →
    ∃ t, exec .addl s = .next t
      ∧ t.regionVal s.regionA = (s.regionVal s.regionA + s.bLimb) % 2 ^ (s.regionA.len * s.cfg.W)
      ∧ t.regionVal s.regionA + t.status.c.toNat * 2 ^ (s.regionA.len * s.cfg.W) = s.regionVal s.regionA + s.bLimb
      ∧ (t.status.c = true → s.src.ctrl.capchk = false)
      ∧ (t.status.z = true ↔ t.regionVal s.regionA = 0)
      ∧ t.completedFrom s ∧ t.sameButRegion s s.regionA

/-- 41_linear_ops.md R162, R163: SUBL when no error is raised. -/
def Obligations.SublResult : Prop :=
  ∀ s : State, s.inPlaceReady →
    (s.bLimb ≤ s.regionVal s.regionA ∨ s.src.ctrl.capchk = false) →
    ∃ t, exec .subl s = .next t
      ∧ (t.regionVal s.regionA : Int)
          = ((s.regionVal s.regionA : Int) - s.bLimb) % 2 ^ (s.regionA.len * s.cfg.W)
      ∧ (t.regionVal s.regionA : Int) - t.status.c.toNat * 2 ^ (s.regionA.len * s.cfg.W)
          = (s.regionVal s.regionA : Int) - s.bLimb
      ∧ (t.status.c = true → s.src.ctrl.capchk = false)
      ∧ (t.status.z = true ↔ t.regionVal s.regionA = 0)
      ∧ t.completedFrom s ∧ t.sameButRegion s s.regionA

/-- 60_exceptions.md R260: CAPACITY. -/
def Obligations.CapacityIsRaised : Prop :=
  ∀ s : State, s.inPlaceReady → s.src.ctrl.capchk = true →
    (2 ^ (s.regionA.len * s.cfg.W) ≤ s.regionVal s.regionA + s.bLimb → exec .addl s = .next (s.raise .capacity)) ∧
    (s.regionVal s.regionA < s.bLimb → exec .subl s = .next (s.raise .capacity))

/-- 41_linear_ops.md R164: ADDL and SUBL read and write only the limbs of region A. Two states that differ in other limbs alone
end alike: the same flags and error fields, the same limbs of region A, and every byte outside it as it was. -/
def Obligations.LinearTouchesRegionAOnly : Prop :=
  ∀ (i : Instr) (s s' : State), i = .addl ∨ i = .subl →
    s' = { s with mem := s'.mem } → s'.limbs s.regionA = s.limbs s.regionA →
    ∃ t t', exec i s = .next t ∧ exec i s' = .next t'
      ∧ t' = { t with mem := t'.mem } ∧ t'.limbs s.regionA = t.limbs s.regionA
      ∧ ∀ x, s.regionA.hasByte s.cfg x = false → t.byteAt x = s.byteAt x ∧ t'.byteAt x = s'.byteAt x

/-- 41_linear_ops.md R161: the limb-serial algorithm yields the limbs of ADDL. -/
def Obligations.SerialAddYieldsAddl : Prop :=
  ∀ s : State, s.inPlaceReady →
    (s.regionVal s.regionA + s.bLimb < 2 ^ (s.regionA.len * s.cfg.W) ∨ s.src.ctrl.capchk = false) →
    ∃ t, exec .addl s = .next t
      ∧ (t.limbs s.regionA, t.status.c) = addSerial s.cfg.W (s.limbs s.regionA) s.bLimb

/-- 41_linear_ops.md R162 ("symmetric borrow propagation"): so does the symmetric one the limbs of SUBL. -/
def Obligations.SerialSubYieldsSubl : Prop :=
  ∀ s : State, s.inPlaceReady →
    (s.bLimb ≤ s.regionVal s.regionA ∨ s.src.ctrl.capchk = false) →
    ∃ t, exec .subl s = .next t
      ∧ (t.limbs s.regionA, t.status.c) = subSerial s.cfg.W (s.limbs s.regionA) s.bLimb

/-! ### The squarer -/

/-- 42_squarer.md R180, R181: SQR when no error is raised. -/
def Obligations.SqrResult : Prop :=
  ∀ s : State, s.sourceDestinationReady (2 * s.regionA.len) →
    ∃ t, exec .sqr s = .next t
      ∧ t.regionVal s.regionC = s.regionVal s.regionA ^ 2
      ∧ (∀ k, 2 * s.regionA.len ≤ k → k < s.regionC.len → t.limb (s.regionC.base + k) = 0)
      ∧ t.regionVal s.regionA = s.regionVal s.regionA
      ∧ t.status.c = false ∧ (t.status.z = true ↔ s.regionVal s.regionA = 0)
      ∧ t.completedFrom s ∧ t.sameButRegion s s.regionC

/-- 42_squarer.md R182: the schoolbook algorithm yields the limbs of SQR. -/
def Obligations.SchoolbookYieldsSqr : Prop :=
  ∀ s : State, s.sourceDestinationReady (2 * s.regionA.len) →
    ∃ t, exec .sqr s = .next t
      ∧ t.limbs { base := s.regionC.base, len := 2 * s.regionA.len } = schoolbook s.cfg.W (s.limbs s.regionA)

/-- 42_squarer.md R180, 43_reducer.md R204, R206, R208, 44_housekeeping.md R242: what region C held before never shows. The
commands that write region C give the same limbs of it from two states that differ in memory outside region A alone. -/
def Obligations.StaleDestinationNeverLeaks : Prop :=
  ∀ (i : Instr) (s s' : State), usesC i = true → reportedError i s = none →
    s' = { s with mem := s'.mem } → (usesA i = true → s'.limbs s.regionA = s.limbs s.regionA) →
    ∃ t t', exec i s = .next t ∧ exec i s' = .next t'
      ∧ t' = { t with mem := t'.mem } ∧ t'.limbs s.regionC = t.limbs s.regionC

/-! ### The reducer -/

/-- 43_reducer.md R202: the properties of one fold pass. -/
def Obligations.FoldPassProperties : Prop :=
  ∀ p v : Nat, 2 ≤ p →
    foldPass p v % (2 ^ p - 1) = v % (2 ^ p - 1)
      ∧ v % 2 ^ p + (v >>> p) = v - (v >>> p) * (2 ^ p - 1)
      ∧ foldPass p v ≤ v ∧ (2 ^ p - 1 ≤ v → foldPass p v < v)
      ∧ (foldPass p v = v ↔ v < 2 ^ p - 1)
      ∧ foldPass p (2 ^ p - 1) = 0

/-- 43_reducer.md R203: the iteration ends, after K passes each applied to a value that is at least 2^p − 1, and K is bounded. -/
def Obligations.FoldCountBound : Prop :=
  ∀ p v l : Nat, 2 ≤ p → 1 ≤ l → v < 2 ^ l →
    (∀ k < (reduce p v).2, 2 ^ p - 1 ≤ (foldPass p)^[k] v)
      ∧ (foldPass p)^[(reduce p v).2] v = (reduce p v).1 ∧ (reduce p v).1 < 2 ^ p - 1
      ∧ (reduce p v).2 ≤ 2 + (if 2 * p ≤ l then (l - 2 * p) / (p - 1) + 1 else 0)
      ∧ (v < 2 ^ (2 * p) → (reduce p v).2 ≤ 2)

/-- 43_reducer.md R201: the limb form of one pass computes PASS_p. -/
def Obligations.LimbPassIsFoldPass : Prop :=
  ∀ (c : Config) (p : Nat) (a : List Nat), 2 ≤ p → (∀ x ∈ a, x < 2 ^ c.W) →
    limbPass c p a = foldPass p (limbsVal c.W a)

/-- 43_reducer.md R204, R209(a) to (c): RED when no error is raised. -/
def Obligations.RedResult : Prop :=
  ∀ s : State, 2 ≤ s.exponent → s.sourceDestinationReady (mpn s.cfg s.exponent) →
    ∃ t, exec .red s = .next t
      ∧ t.regionVal s.regionC = s.regionVal s.regionA % (2 ^ s.exponent - 1)
      ∧ t.regionVal s.regionC < 2 ^ s.exponent - 1
      ∧ (∀ k, mpn s.cfg s.exponent ≤ k → k < s.regionC.len → t.limb (s.regionC.base + k) = 0)
      ∧ t.passes = BitVec.ofNat 32 (reduce s.exponent (s.regionVal s.regionA)).2
      ∧ t.regionVal s.regionA = s.regionVal s.regionA
      ∧ t.status.c = false ∧ (t.status.z = true ↔ t.regionVal s.regionC = 0)
      ∧ t.completedFrom s ∧ t.sameButRegionAndPasses s s.regionC

/-- 43_reducer.md R205(a), R209(d), (e): a value already below the modulus is copied through with PASSES = 0, so RED of RED's
result is that result; and PASSES, which never overflows in a build the spec allows, is at most 2 below 2^(2p). -/
def Obligations.RedPasses : Prop :=
  ∀ s : State, s.cfg.wellFormed = true → 2 ≤ s.exponent → s.sourceDestinationReady (mpn s.cfg s.exponent) →
    ∃ t, exec .red s = .next t
      ∧ t.passes.toNat = (reduce s.exponent (s.regionVal s.regionA)).2
      ∧ (s.regionVal s.regionA < 2 ^ s.exponent - 1 →
          t.passes = 0 ∧ t.regionVal s.regionC = s.regionVal s.regionA)
      ∧ (s.regionVal s.regionA < 2 ^ (2 * s.exponent) → t.passes.toNat ≤ 2)

/-- 43_reducer.md R206: RPASS when no error is raised. -/
def Obligations.RpassResult : Prop :=
  ∀ s : State, 2 ≤ s.exponent → s.sourceDestinationReady s.regionA.len →
    ∃ t, exec .rpass s = .next t
      ∧ t.regionVal s.regionC
          = (if s.regionVal s.regionA % 2 ^ s.exponent + s.regionVal s.regionA / 2 ^ s.exponent = 2 ^ s.exponent - 1
             then 0 else s.regionVal s.regionA % 2 ^ s.exponent + s.regionVal s.regionA / 2 ^ s.exponent)
      ∧ t.passes = 1
      ∧ t.regionVal s.regionA = s.regionVal s.regionA
      ∧ t.status.c = false ∧ (t.status.z = true ↔ t.regionVal s.regionC = 0)
      ∧ t.completedFrom s ∧ t.sameButRegionAndPasses s s.regionC

/-- 43_reducer.md R207: four passes do not reduce 0xFFFF modulo 7; the loop does. A sanity statement. -/
def Obligations.FourPassesFallShort : Prop :=
  foldPass 3 0xFFFF = 0x2006 ∧ foldPass 3 0x2006 = 0x0406 ∧ foldPass 3 0x0406 = 0x0086 ∧ foldPass 3 0x0086 = 0x0016
    ∧ reduce 3 0xFFFF = (1, 6)

/-- 43_reducer.md R208: MKMP when no error is raised. -/
def Obligations.MkmpResult : Prop :=
  ∀ s : State, 2 ≤ s.exponent → s.destinationReady (mpn s.cfg s.exponent) →
    ∃ t, exec .mkmp s = .next t
      ∧ t.regionVal s.regionC = 2 ^ s.exponent - 1
      ∧ (∀ k, mpn s.cfg s.exponent ≤ k → k < s.regionC.len → t.limb (s.regionC.base + k) = 0)
      ∧ t.status.c = false ∧ t.status.z = false
      ∧ t.completedFrom s ∧ t.sameButRegion s s.regionC

/-- 10_state.md R29, 00_scope.md R6 and conflict C1: MPN is the least limb count that holds 2^p − 1, and LMASK is the top limb
of 2^p − 1; the registers MPN and LMASK read as ceil(P / W) and that mask for the current P, and the reads after a write of P
follow it at once (70_reset_and_hazards.md R306). -/
def Obligations.MpnAndLmaskDescribeModulus : Prop :=
  (∀ (c : Config) (p : Nat), 1 ≤ p →
    2 ^ p - 1 < 2 ^ (mpn c p * c.W) ∧ 2 ^ ((mpn c p - 1) * c.W) ≤ 2 ^ p - 1
      ∧ (2 ^ p - 1) / 2 ^ ((mpn c p - 1) * c.W) = lmask c p) ∧
  (let reads (u : State) (p : Nat) : Prop :=
      (u.current .mpn).toNat = mpn u.cfg p ∧ (u.current .mpn).toNat = (p + (u.cfg.W - 1)) / u.cfg.W
        ∧ (u.current .lmask).toNat = lmask u.cfg p
        ∧ (u.current .lmask).toNat = (if p % u.cfg.W = 0 then 2 ^ u.cfg.W - 1 else 2 ^ (p % u.cfg.W) - 1);
    (∀ s : State, reads s s.regs.p.toNat) ∧
    (∀ (s : State) (d : DWord) (rest : List Event), s.status.busy = false → s.inbox = wr s.cfg .p d :: rest →
      ∃ u, step s = .next u ∧ reads u (d.toNat % 2 ^ 32)))

/-! ### Housekeeping -/

/-- 44_housekeeping.md R240: NOP changes nothing but BUSY, DONE and the latch. -/
def Obligations.NopResult : Prop :=
  ∀ s : State, exec .nop s = .next { s with
    pend := none, status := { s.status with busy := false, done := true } }

/-- 44_housekeeping.md R242: CLR when no error is raised. -/
def Obligations.ClrResult : Prop :=
  ∀ s : State, s.destinationReady 0 →
    ∃ t, exec .clr s = .next t
      ∧ (∀ k, k < s.regionC.len → t.limb (s.regionC.base + k) = 0)
      ∧ t.status.c = false ∧ t.status.z = true
      ∧ t.completedFrom s ∧ t.sameButRegion s s.regionC

/-! ### Limb memory -/

/-- 00_scope.md R9: the value of n limbs from index a. -/
def Obligations.MemReadIsLimbSum : Prop :=
  ∀ (s : State) (a n : Nat),
    s.memRead a n = ∑ k ∈ Finset.range n, s.limb (a + k) * 2 ^ (k * s.cfg.W)

/-- 20_memory.md R73: byte k of a limb's slot is bits [8k+7:8k] of the limb, zero above its W/8 bytes. -/
def Obligations.SlotByteLanes : Prop :=
  ∀ (s : State) (i k : Nat), i < s.cfg.depth → k < 8 →
    s.windowByte (slotAddr i + k) = BitVec.ofNat 8 (s.limb i / 2 ^ (8 * k))
      ∧ s.windowByte (slotAddr i + k) = (if k < s.cfg.bytes then s.byteAt (slotAddr i + k) else 0)

/-! ### The host's accesses -/

/-- 10_state.md R22, 20_memory.md R72, R74: each register is at its offset of the table and at no other, each existing limb's
slot is at 0x100000 + 8·i and at no other aligned offset, and every other aligned offset is reserved; the model's own table
of offsets agrees. -/
def Obligations.RegisterMapIsExact : Prop :=
  ∀ c : Config,
    let table : List (Nat × Target) :=
      [(0x000, .id), (0x008, .ctrl), (0x010, .status), (0x018, .cmd), (0x020, .p), (0x028, .mpn), (0x030, .lmask),
       (0x038, .abase), (0x040, .alen), (0x048, .cbase), (0x050, .clen), (0x058, .bval), (0x060, .opa), (0x068, .opb),
       (0x070, .rlo), (0x078, .rhi), (0x080, .passes), (0x088, .einfo)]
    (∀ (off : Nat) (t : Target), t ≠ .reserved → (∀ i, t ≠ .slot i) → (target c off = t ↔ (off, t) ∈ table)) ∧
    (∀ off i : Nat, off % 8 = 0 → (target c off = .slot i ↔ i < c.depth ∧ off = 0x100000 + 8 * i)) ∧
    (∀ off : Nat, off % 8 = 0 →
      (target c off = .reserved ↔
        (0x090 ≤ off ∧ off < 0x100000) ∨ 0x100000 + 8 * c.depth ≤ off)) ∧
    (∀ t : Target, t ≠ .reserved → (∀ i, t = .slot i → i < c.depth) → target c t.offset = t ∧ t.offset % 8 = 0)

/-- What each register, slot and reserved offset reads as while BUSY = 0 (10_state.md R24 to R28, R30 to R38; 20_memory.md R72,
R74): `ReadsHaveNoSideEffects` says that a read answers it. ID has a statement of its own, and so have MPN and LMASK. -/
def Obligations.CurrentValues : Prop :=
  ∀ s : State,
    (let d := s.current .status
     d.getLsbD 0 = s.status.busy ∧ d.getLsbD 1 = s.status.done ∧ d.getLsbD 2 = s.status.err ∧ d.getLsbD 3 = s.status.ovr
       ∧ d.getLsbD 4 = s.status.c ∧ d.getLsbD 5 = s.status.z ∧ d.extractLsb' 8 8 = s.status.ecode
       ∧ ∀ b, b = 6 ∨ b = 7 ∨ 16 ≤ b → d.getLsbD b = false) ∧
    (let d := s.current .ctrl
     d.getLsbD 0 = s.regs.ctrl.capchk ∧ d.getLsbD 1 = s.regs.ctrl.ie ∧ ∀ b, 2 ≤ b → d.getLsbD b = false) ∧
    (s.current .cmd).toNat = s.cmd.toNat ∧ (s.current .einfo).toNat = s.einfo.toNat
      ∧ (s.current .passes).toNat = s.passes.toNat ∧ (s.current .p).toNat = s.regs.p.toNat
      ∧ (s.current .abase).toNat = s.regs.abase.toNat ∧ (s.current .alen).toNat = s.regs.alen.toNat
      ∧ (s.current .cbase).toNat = s.regs.cbase.toNat ∧ (s.current .clen).toNat = s.regs.clen.toNat
      ∧ (s.current .bval).toNat = s.regs.bval.toNat % 2 ^ s.cfg.W ∧ (s.current .opa).toNat = s.regs.opa.toNat % 2 ^ s.cfg.W
      ∧ (s.current .opb).toNat = s.regs.opb.toNat % 2 ^ s.cfg.W ∧ (s.current .rlo).toNat = s.rlo.toNat % 2 ^ s.cfg.W
      ∧ (s.current .rhi).toNat = s.rhi.toNat % 2 ^ s.cfg.W
      ∧ (∀ i, (s.current (.slot i)).toNat = s.limb i ∧ s.limb i < 2 ^ s.cfg.W) ∧ s.current .reserved = 0

/-- 20_memory.md R76: a permitted read changes nothing but what the bus answers (and the model's count of unspecified values
drawn, log 3), and while BUSY = 0 it answers the register's or slot's value (`CurrentValues` says which). -/
def Obligations.ReadsHaveNoSideEffects : Prop :=
  ∀ (s : State) (x : Nat) (rest : List Event),
    inWindow s.cfg x = true → (x - s.cfg.hostBase) % 8 = 0 → s.inbox = Event.access (.read x 8) :: rest →
    ∃ t, step s = .next t
      ∧ t = { s with inbox := rest, response := t.response, draws := t.draws }
      ∧ (s.status.busy = false →
          t.response = .data (s.current (target s.cfg (x - s.cfg.hostBase))) ∧ t.draws = s.draws)

/-- 20_memory.md R81(c), (d), 93_implementation_defined.md I6: what a permitted read answers while BUSY = 1. Every target but LM,
RLO, RHI, PASSES and STATUS answers its current value; LM, RLO and RHI answer some W-bit value, PASSES some 32-bit value, and
STATUS its current value but for bits 4 and 5. The read has no effect on the block. -/
def Obligations.ReadWhileBusy : Prop :=
  ∀ (s : State) (t : Target) (rest : List Event), s.cfg.wellFormed = true → s.status.busy = true →
    (∀ i, t = .slot i → i < s.cfg.depth) → s.inbox = rd s.cfg t :: rest →
    ∃ (v : DWord) (n : Nat), step s = .next { s with inbox := rest, response := .data v, draws := n }
      ∧ (t.readableWhileBusy = true → t ≠ .status → v = s.current t)
      ∧ (t = .rlo ∨ t = .rhi ∨ (∃ i, t = .slot i) → v.toNat < 2 ^ s.cfg.W)
      ∧ (t = .passes → v.toNat < 2 ^ 32)
      ∧ (t = .status → ∀ b, b ≠ 4 → b ≠ 5 → v.getLsbD b = (s.current .status).getLsbD b)

/-- 20_memory.md R75, 60_exceptions.md R262: an access of another width or alignment is refused; it changes nothing of the block,
answers a bus error, and records the host-side fault (logs 3, 7). -/
def Obligations.RefusedAccessChangesNothing : Prop :=
  ∀ (s : State) (a : Access) (rest : List Event),
    inWindow s.cfg a.addr = true → (a.bytes ≠ 8 ∨ (a.addr - s.cfg.hostBase) % 8 ≠ 0) →
    s.inbox = Event.access a :: rest →
    ∃ t, step s = .next t
      ∧ t = { s with inbox := rest, response := t.response, draws := t.draws, hostFault := true }
      ∧ (t.response = .busErrorWrite ∨ ∃ v, t.response = .busErrorRead v)

/-- An access outside the window is none of the block's (20_memory.md R70, R71): the model's fault (log 8). -/
def Obligations.OutsideWindowFaults : Prop :=
  ∀ (s : State) (a : Access) (rest : List Event),
    a.addr < s.cfg.hostBase ∨ s.cfg.hostBase + 2 ^ 24 ≤ a.addr → s.inbox = Event.access a :: rest →
    step s = .fault (.outsideWindow a.addr)

/-- 20_memory.md R82: a write to CMD is dropped while BUSY = 1 or ERR = 1, setting OVR alone; else it is accepted. The
bus's acknowledgement, here and below, is the model's choice (log 5). -/
def Obligations.CommandWrite : Prop :=
  ∀ (s : State) (d : DWord) (rest : List Event), s.inbox = wr s.cfg .cmd d :: rest →
    (s.status.busy = true ∨ s.status.err = true →
      step s = .next { s with inbox := rest, response := .ack, status := { s.status with ovr := true } }) ∧
    (s.status.busy = false → s.status.err = false →
      step s = .next { s with
        inbox := rest, response := .ack
        cmd := d.setWidth 16
        pend := some { data := d, snap := s.regs }
        status := { s.status with busy := true, done := false } })

/-- 10_state.md R25, R27, 60_exceptions.md R265: a write to STATUS, at any time (the acknowledgement: log 5). -/
def Obligations.StatusWrite : Prop :=
  ∀ (s : State) (d : DWord) (rest : List Event), s.inbox = wr s.cfg .status d :: rest →
    step s = .next { s with
      inbox := rest, response := .ack
      status := { s.status with
        done := s.status.done && !d.getLsbD 1
        err := s.status.err && !d.getLsbD 2
        ecode := if d.getLsbD 2 then 0 else s.status.ecode
        ovr := s.status.ovr && !d.getLsbD 3 } }

/-- 20_memory.md R81(a), 60_exceptions.md R263, 70_reset_and_hazards.md R300: while BUSY = 1 a permitted write to anything but
STATUS (a slot, a writable or read-only register, a reserved offset: log 9) changes nothing and sets OVR (the acknowledgement:
log 5). -/
def Obligations.BusyWriteIsDropped : Prop :=
  ∀ (s : State) (x : Nat) (d : DWord) (rest : List Event),
    inWindow s.cfg x = true → (x - s.cfg.hostBase) % 8 = 0 → target s.cfg (x - s.cfg.hostBase) ≠ .status →
    s.status.busy = true → s.inbox = Event.access (.write x 8 d) :: rest →
    step s = .next { s with inbox := rest, response := .ack, status := { s.status with ovr := true } }

/-- 20_memory.md R74, 10_state.md R38: a write to a read-only register or a reserved offset is ignored: while BUSY = 0 it
changes nothing. While BUSY = 1 the drop rule of 20_memory.md R81(a) sets OVR, and nothing else changes (log 9; the
acknowledgement: log 5). -/
def Obligations.IgnoredWriteChangesNothing : Prop :=
  ∀ (s : State) (x : Nat) (d : DWord) (rest : List Event),
    inWindow s.cfg x = true → (x - s.cfg.hostBase) % 8 = 0 →
    (target s.cfg (x - s.cfg.hostBase)).ignoresWrites = true → s.inbox = Event.access (.write x 8 d) :: rest →
    step s = .next { s with
      inbox := rest, response := .ack
      status := { s.status with ovr := s.status.ovr || s.status.busy } }

/-- 20_memory.md R74: the offsets 0x090 to 0x0FFFFF and those above the last slot are reserved and read 0, at any time. -/
def Obligations.ReservedOffsetsReadZero : Prop :=
  ∀ (s : State) (off : Nat) (rest : List Event),
    off % 8 = 0 → (0x090 ≤ off ∧ off ≤ 0x0FFFFF) ∨ (0x100000 + 8 * s.cfg.depth ≤ off ∧ off ≤ 0xFFFFFF) →
    s.inbox = Event.access (.read (s.cfg.hostBase + off) 8) :: rest →
    ∃ t, step s = .next t ∧ t.response = .data 0

/-- 10_state.md R24, R28, R30 to R32, R37, R38: what each writable register keeps of a write, as the next read shows it; the
rest of the state is unchanged (the acknowledgement: log 5). -/
def Obligations.RegisterWriteReadsBack : Prop :=
  ∀ (s : State) (t : Target) (d : DWord) (rest : List Event), s.status.busy = false →
    t ∈ [Target.ctrl, .p, .abase, .alen, .cbase, .clen, .bval, .opa, .opb] →
    s.inbox = wr s.cfg t d :: rest →
    ∃ u, step s = .next u
      ∧ u = { s with inbox := rest, response := .ack, regs := u.regs }
      ∧ (u.current t).toNat
          = d.toNat % (if t = .ctrl then 2 ^ 2 else if t ∈ [Target.bval, .opa, .opb] then 2 ^ s.cfg.W else 2 ^ 32)
      ∧ ∀ t' ∈ [Target.ctrl, .p, .abase, .alen, .cbase, .clen, .bval, .opa, .opb],
          t' ≠ t → u.current t' = s.current t'

/-- 20_memory.md R72: a slot write sets the limb to the low W bits, the next read of the slot shows it zero-extended, and every
other limb and byte is unchanged (the acknowledgement: log 5). -/
def Obligations.SlotWriteReadsBack : Prop :=
  ∀ (s : State) (i : Nat) (d : DWord) (rest : List Event), s.cfg.wellFormed = true → s.status.busy = false → i < s.cfg.depth →
    s.inbox = wr s.cfg (.slot i) d :: rest →
    ∃ u, step s = .next u
      ∧ u = { s with inbox := rest, response := .ack, mem := u.mem }
      ∧ (u.current (.slot i)).toNat = d.toNat % 2 ^ s.cfg.W
      ∧ (∀ j, j ≠ i → u.limb j = s.limb j)
      ∧ ∀ x, (Region.mk i 1).hasByte s.cfg x = false → u.byteAt x = s.byteAt x

/-- 70_reset_and_hazards.md R300, R305: a host that keeps its duties never has a write dropped and never breaks the bus. -/
def Obligations.DutifulHostIsNeverDropped : Prop :=
  ∀ (s : State) (e : Event) (rest : List Event), s.inbox = e :: rest → s.dutiful e = true →
    ∃ t, step s = .next t ∧ (t.status.ovr = true → s.status.ovr = true) ∧ t.hostFault = s.hostFault

/-- 20_memory.md R80, the litmus consequence: write LM, issue a command, let it complete, then read; the read shows the result
computed from the written LM. -/
def Obligations.WriteIssueWaitRead : Prop :=
  ∀ (s : State) (i : Instr) (k j : Nat) (d : DWord),
    s.cfg.wellFormed = true → s.status.busy = false → s.status.err = false → i.wellFormed = true → k < s.cfg.depth → j < s.cfg.depth →
    s.inbox = [wr s.cfg (.slot k) d, issueEvent s.cfg i, .blockTurn, rd s.cfg (.slot j)] →
    ∃ (t : State) (u : State),
      exec i { ((s.setLimb k d.toNat).accept (encode i)) with
        inbox := [rd s.cfg (.slot j)], response := .ack } = .next t
      ∧ Sys2Proof.core.run 4 s = .next u ∧ u.response = .data (BitVec.ofNat 64 (t.limb j)) ∧ u.mem = t.mem

/-! ### Interrupt and reset -/

/-- 60_exceptions.md R270, R271: irq = IE ∧ (DONE ∨ ERR); so every command's completion raises it in the same step, exactly when
it is enabled. -/
def Obligations.CompletionRaisesIrq : Prop :=
  (∀ s : State, s.irq = (s.regs.ctrl.ie && (s.status.done || s.status.err))) ∧
  ∀ (i : Instr) (s t : State), exec i s = .next t → t.irq = s.regs.ctrl.ie

/-- 70_reset_and_hazards.md R290: the reset input. What is not the block's, and the model's count of resets, is the model's
choice (log 12). -/
def Obligations.ResetInputResets : Prop :=
  ∀ (s : State) (rest : List Event), s.inbox = Event.reset :: rest →
    ∃ t, step s = .next t
      ∧ t.cfg = s.cfg ∧ t.pend = none ∧ t.status.toWord = 0 ∧ t.irq = false
      ∧ t.current .ctrl = 1 ∧ t.current .mpn = 0 ∧ (t.current .lmask).toNat = 2 ^ s.cfg.W - 1
      ∧ ∀ r ∈ [Target.status, .cmd, .p, .abase, .alen, .cbase, .clen, .bval, .opa, .opb, .rlo, .rhi, .passes, .einfo],
          t.current r = 0

/-- 70_reset_and_hazards.md R291, in the model's form (log 2): after the reset input no byte of LM is written, and each reads as
the free value of the new reset count. -/
def Obligations.ResetLeavesMemoryUnspecified : Prop :=
  ∀ (s : State) (rest : List Event), s.inbox = Event.reset :: rest →
    ∃ t, step s = .next t ∧ t.epoch = s.epoch + 1 ∧ ∀ x, t.byteAt x = Config.staleByte (s.epoch + 1) x
end

