-- ==== Sys2Proof/Laws/Memory.lean ====
section
/-! SUPPORT. What the limb-memory operations do: a read after a write, everything else unchanged, the canonical form kept. -/

namespace Sys2Proof

/-! ### The limb width -/

theorem Config.bytes_pos (c : Config) : 0 < c.bytes := by
  cases h : c.width <;> simp [Config.bytes, LimbWidth.bytes, h]

theorem Config.bytes_le (c : Config) : c.bytes ≤ 8 := by
  cases h : c.width <;> simp [Config.bytes, LimbWidth.bytes, h]

theorem Config.W_eq (c : Config) : c.W = 8 * c.bytes := rfl

theorem Config.W_pos (c : Config) : 0 < c.W := by have := c.bytes_pos; rw [Config.W_eq]; omega

theorem Config.W_le (c : Config) : c.W ≤ 64 := by have := c.bytes_le; rw [Config.W_eq]; omega

end Sys2Proof

namespace Sys2Proof.Machine

/-! ### One byte -/

@[simp] theorem Memory.read_nil (x : Nat) : Memory.read [] x = none := rfl

theorem Memory.read_write_same (m : Memory) (x : Nat) (v : Byte) : (m.write x v).read x = some v := by
  induction m with
  | nil => simp [Memory.write, Memory.read]
  | cons c m ih =>
    obtain ⟨a, b⟩ := c
    simp only [Memory.write]
    split
    · simp [Memory.read]
    · split
      · simp [Memory.read]
      · simp only [Memory.read]
        rw [if_neg (by omega), ih]

theorem Memory.read_write_other (m : Memory) {x y : Nat} (v : Byte) (h : y ≠ x) : (m.write x v).read y = m.read y := by
  induction m with
  | nil => simp only [Memory.write, Memory.read]; rw [if_neg (by omega)]
  | cons c m ih =>
    obtain ⟨a, b⟩ := c
    simp only [Memory.write]
    split
    · simp only [Memory.read]; rw [if_neg (by omega)]
    · split
      · subst_vars; simp only [Memory.read]; rw [if_neg (by omega), if_neg (by omega)]
      · simp only [Memory.read, ih]

/-- A written memory's cells are the old ones and the new one. -/
theorem Memory.mem_write {m : Memory} {x : Nat} {v : Byte} {c : Host.Cell} (h : c ∈ m.write x v) :
    c = (x, v) ∨ c ∈ m := by
  induction m with
  | nil => simpa [Memory.write] using h
  | cons d m ih =>
    obtain ⟨a, b⟩ := d
    simp only [Memory.write] at h
    split at h
    · simpa using h
    · split at h
      · rcases List.mem_cons.1 h with h | h
        · exact .inl h
        · exact .inr (List.mem_cons_of_mem _ h)
      · rcases List.mem_cons.1 h with h | h
        · exact .inr (by simp [h])
        · rcases ih h with h | h
          · exact .inl h
          · exact .inr (List.mem_cons_of_mem _ h)

/-- A write keeps the canonical form. -/
theorem Memory.write_wf {m : Memory} (h : m.wf) (x : Nat) (v : Byte) : (m.write x v).wf := by
  induction m with
  | nil => simp [Memory.write, Memory.wf]
  | cons d m ih =>
    obtain ⟨a, b⟩ := d
    have ⟨ha, hm⟩ := List.pairwise_cons.1 h
    simp only [Memory.write]
    split
    next hx =>
      refine List.pairwise_cons.2 ⟨?_, h⟩
      intro c hc
      rcases List.mem_cons.1 hc with rfl | hc
      · exact hx
      · exact Nat.lt_trans hx (ha c hc)
    next hx =>
      split
      next e => subst e; exact List.pairwise_cons.2 ⟨ha, hm⟩
      next e =>
        refine List.pairwise_cons.2 ⟨?_, ih hm⟩
        intro c hc
        rcases Memory.mem_write hc with rfl | hc
        · show a < x; omega
        · exact ha c hc

/-! ### Several bytes -/

/-- Reading after a little-endian store: the stored bytes inside, the old ones outside. -/
theorem Memory.read_storeLE (m : Memory) (x v k y : Nat) :
    (m.storeLE x v k).read y =
      if x ≤ y ∧ y < x + k then some (BitVec.ofNat 8 (v / 2 ^ (8 * (y - x)))) else m.read y := by
  induction k generalizing m x v with
  | zero => rw [if_neg (by omega)]; rfl
  | succ k ih =>
    simp only [Memory.storeLE]
    rw [ih]
    by_cases h0 : y = x
    · subst h0
      rw [if_neg (by omega), if_pos (by omega), Memory.read_write_same]
      simp
    · rw [Memory.read_write_other _ _ h0]
      by_cases h1 : x ≤ y ∧ y < x + (k + 1)
      · rw [if_pos h1, if_pos (by omega), Nat.div_div_eq_div_mul, ← pow_add]
        congr 4
        omega
      · rw [if_neg h1, if_neg (by omega)]

theorem Memory.storeLE_wf {m : Memory} (h : m.wf) (x v k : Nat) : (m.storeLE x v k).wf := by
  induction k generalizing m x v with
  | zero => exact h
  | succ k ih => exact ih (Memory.write_wf h _ _) _ _

theorem Memory.mem_storeLE {m : Memory} {x v k : Nat} {c : Host.Cell} (h : c ∈ m.storeLE x v k) :
    (x ≤ c.1 ∧ c.1 < x + k) ∨ c ∈ m := by
  induction k generalizing m x v with
  | zero => exact .inr h
  | succ k ih =>
    rcases ih h with h | h
    · exact .inl (by omega)
    · rcases Memory.mem_write h with rfl | h
      · exact .inl (by simp)
      · exact .inr h

/-- Reading `k` bytes gives a number of `k` bytes. -/
theorem State.loadLE_lt (s : State) (x k : Nat) : s.loadLE x k < 2 ^ (8 * k) := by
  induction k generalizing x with
  | zero => simp [State.loadLE]
  | succ k ih =>
    have h1 := ih (x + 1)
    have h2 := (s.byteAt x).isLt
    have e : 2 ^ (8 * (k + 1)) = 2 ^ 8 * 2 ^ (8 * k) := by rw [← pow_add]; congr 1; omega
    simp only [State.loadLE]
    rw [e]
    omega

/-- The bytes read depend on the bytes there alone. -/
theorem State.loadLE_congr {s t : State} {x k : Nat} (h : ∀ y, x ≤ y → y < x + k → t.byteAt y = s.byteAt y) :
    t.loadLE x k = s.loadLE x k := by
  induction k generalizing x with
  | zero => rfl
  | succ k ih =>
    simp only [State.loadLE]
    rw [h x (by omega) (by omega), ih fun y h1 h2 => h y (by omega) (by omega)]

/-- Reading back a little-endian number that lies there byte by byte. -/
theorem State.loadLE_eq {s : State} {x v k : Nat}
    (h : ∀ y, x ≤ y → y < x + k → s.byteAt y = BitVec.ofNat 8 (v / 2 ^ (8 * (y - x)))) :
    s.loadLE x k = v % 2 ^ (8 * k) := by
  induction k generalizing x v with
  | zero => simp [State.loadLE, Nat.mod_one]
  | succ k ih =>
    simp only [State.loadLE]
    have h0 := h x (by omega) (by omega)
    rw [ih (v := v / 2 ^ 8) fun y h1 h2 => ?_, h0]
    · have e : 2 ^ (8 * (k + 1)) = 2 ^ 8 * 2 ^ (8 * k) := by rw [← pow_add]; congr 1; omega
      rw [e, Nat.mod_mul]
      simp
    · rw [h y (by omega) (by omega), Nat.div_div_eq_div_mul, ← pow_add]
      congr 3
      omega

/-! ### One limb -/

/-- The bytes of a region, as arithmetic. -/
theorem Region.hasByte_iff (r : Region) (c : Config) (x : Nat) :
    r.hasByte c x = true ↔
      0x100000 + 8 * r.base ≤ x ∧ x < 0x100000 + 8 * (r.base + r.len) ∧ (x - 0x100000) % 8 < c.bytes := by
  unfold Region.hasByte
  rw [decide_eq_true_eq]

theorem Region.hasByte_false_iff (r : Region) (c : Config) (x : Nat) :
    r.hasByte c x = false ↔
      ¬ (0x100000 + 8 * r.base ≤ x ∧ x < 0x100000 + 8 * (r.base + r.len) ∧ (x - 0x100000) % 8 < c.bytes) := by
  rw [← Region.hasByte_iff, Bool.not_eq_true]

/-- A limb is below 2^W. -/
theorem State.limb_lt (s : State) (i : Nat) : s.limb i < 2 ^ s.cfg.W := s.loadLE_lt _ _

/-- Whether offset `x` holds a byte of limb `i`. -/
theorem Region.hasByte_single (c : Config) (i x : Nat) :
    (Region.mk i 1).hasByte c x = true ↔ slotAddr i ≤ x ∧ x < slotAddr i + c.bytes := by
  have h8 := c.bytes_le
  rw [Region.hasByte_iff]
  simp only [slotAddr]
  omega

/-- What one byte reads as after a limb is written. -/
theorem State.byteAt_setLimb (s : State) (i v x : Nat) :
    (s.setLimb i v).byteAt x =
      if slotAddr i ≤ x ∧ x < slotAddr i + s.cfg.bytes then BitVec.ofNat 8 (v / 2 ^ (8 * (x - slotAddr i)))
      else s.byteAt x := by
  simp only [State.byteAt, State.setLimb, Memory.writeLimb, Memory.read_storeLE]
  split <;> rfl

theorem State.limb_setLimb_same (s : State) (i v : Nat) : (s.setLimb i v).limb i = v % 2 ^ s.cfg.W :=
  State.loadLE_eq fun y h1 h2 => by
    rw [State.byteAt_setLimb, if_pos ⟨h1, h2⟩]

theorem State.limb_setLimb_other (s : State) {i j : Nat} (v : Nat) (h : j ≠ i) : (s.setLimb i v).limb j = s.limb j :=
  State.loadLE_congr fun y h1 h2 => by
    have h8 := s.cfg.bytes_le
    have h2' : y < slotAddr j + s.cfg.bytes := h2
    rw [State.byteAt_setLimb, if_neg]
    simp only [slotAddr] at *
    omega

/-! ### Several limbs -/

/-- Writing `n + 1` limbs is writing the first and then the rest. -/
theorem State.memWrite_succ (s : State) (a n v : Nat) :
    s.memWrite a (n + 1) v = (s.setLimb a v).memWrite (a + 1) n (v / 2 ^ s.cfg.W) := rfl

@[simp] theorem State.memWrite_zero (s : State) (a v : Nat) : s.memWrite a 0 v = s := rfl

/-- What one byte reads as after a multi-limb write: unchanged outside the region. -/
theorem State.byteAt_memWrite_outside (s : State) {a n v x : Nat} (h : (Region.mk a n).hasByte s.cfg x = false) :
    (s.memWrite a n v).byteAt x = s.byteAt x := by
  induction n generalizing s a v with
  | zero => rfl
  | succ n ih =>
    rw [State.memWrite_succ]
    have h8 := s.cfg.bytes_le
    rw [Region.hasByte_false_iff] at h
    simp only at h
    rw [ih (s.setLimb a v) (by
      show (Region.mk (a + 1) n).hasByte s.cfg x = false
      rw [Region.hasByte_false_iff]; simp only; omega),
      State.byteAt_setLimb, if_neg]
    simp only [slotAddr]
    omega

/-- A limb outside the region is unchanged. -/
theorem State.limb_memWrite_outside (s : State) {a n v j : Nat} (h : j < a ∨ a + n ≤ j) :
    (s.memWrite a n v).limb j = s.limb j :=
  State.loadLE_congr fun y h1 h2 => State.byteAt_memWrite_outside s (by
    have h8 := s.cfg.bytes_le
    have h2' : y < slotAddr j + s.cfg.bytes := h2
    rw [Region.hasByte_false_iff]
    simp only [slotAddr] at *
    omega)

/-- Limb `k` of a written region takes bits `[k·W, (k+1)·W)` of the value (00_scope.md R10). -/
theorem State.limb_memWrite_inside (s : State) {a n v k : Nat} (h : k < n) :
    (s.memWrite a n v).limb (a + k) = v / 2 ^ (k * s.cfg.W) % 2 ^ s.cfg.W := by
  induction n generalizing s a v k with
  | zero => omega
  | succ n ih =>
    rw [State.memWrite_succ]
    cases k with
    | zero =>
      rw [State.limb_memWrite_outside _ (by omega), Nat.add_zero, State.limb_setLimb_same]
      simp
    | succ k =>
      have e : a + (k + 1) = a + 1 + k := by omega
      rw [e, ih (s.setLimb a v) (by omega)]
      show v / 2 ^ s.cfg.W / 2 ^ (k * s.cfg.W) % 2 ^ s.cfg.W = _
      rw [Nat.div_div_eq_div_mul, ← pow_add]
      congr 3
      ring

/-- The value read depends on the limbs of the region alone. -/
theorem State.memRead_congr {s t : State} (hc : t.cfg = s.cfg) {a n : Nat}
    (h : ∀ j, a ≤ j → j < a + n → t.limb j = s.limb j) : t.memRead a n = s.memRead a n := by
  induction n generalizing a with
  | zero => rfl
  | succ n ih =>
    simp only [State.memRead, hc]
    rw [h a (by omega) (by omega), ih fun j h1 h2 => h j (by omega) (by omega)]

theorem State.memRead_lt (s : State) (a n : Nat) : s.memRead a n < 2 ^ (n * s.cfg.W) := by
  induction n generalizing a with
  | zero => simp [State.memRead]
  | succ n ih =>
    have h1 := ih (a + 1)
    have h2 := s.limb_lt a
    have e : 2 ^ ((n + 1) * s.cfg.W) = 2 ^ s.cfg.W * 2 ^ (n * s.cfg.W) := by rw [← pow_add]; congr 1; ring
    simp only [State.memRead]
    rw [e]
    generalize s.memRead (a + 1) n = r at *
    nlinarith

/-- `MemRead` after `MemWrite` of the same region gives the value, cut to the region (00_scope.md R10). -/
theorem State.memRead_memWrite_same (s : State) (a n v : Nat) :
    (s.memWrite a n v).memRead a n = v % 2 ^ (n * s.cfg.W) := by
  induction n generalizing s a v with
  | zero => simp [State.memRead, Nat.mod_one]
  | succ n ih =>
    rw [State.memWrite_succ]
    simp only [State.memRead]
    rw [ih (s.setLimb a v), State.limb_memWrite_outside _ (by omega), State.limb_setLimb_same]
    show v % 2 ^ s.cfg.W + 2 ^ s.cfg.W * (v / 2 ^ s.cfg.W % 2 ^ (n * s.cfg.W)) = _
    have e : 2 ^ ((n + 1) * s.cfg.W) = 2 ^ s.cfg.W * 2 ^ (n * s.cfg.W) := by rw [← pow_add]; congr 1; ring
    rw [e, Nat.mod_mul]

/-- A region disjoint from the written one reads as before. -/
theorem State.memRead_memWrite_outside (s : State) {a n v b k : Nat} (h : b + k ≤ a ∨ a + n ≤ b) :
    (s.memWrite a n v).memRead b k = s.memRead b k :=
  State.memRead_congr (s := s) (t := s.memWrite a n v) rfl fun _ _ _ => State.limb_memWrite_outside s (by omega)

/-- A multi-limb write keeps the canonical form. -/
theorem Memory.writeLimbs_wf {m : Memory} (h : m.wf) (c : Config) (a n v : Nat) : (m.writeLimbs c a n v).wf := by
  induction n generalizing m a v with
  | zero => exact h
  | succ n ih => exact ih (Memory.storeLE_wf h _ _ _) _ _

/-- A one-limb write keeps the canonical form. -/
theorem Memory.writeLimb_wf {m : Memory} (h : m.wf) (c : Config) (i v : Nat) : (m.writeLimb c i v).wf :=
  Memory.storeLE_wf h _ _ _

/-- The reset state's memory is in canonical form. -/
theorem State.reset_mem_wf : State.reset.mem.wf := List.Pairwise.nil

/-- A multi-limb write lists only bytes of the region's limbs anew. -/
theorem Memory.mem_writeLimbs {m : Memory} {c : Config} {a n v : Nat} {d : Host.Cell} (h : d ∈ m.writeLimbs c a n v) :
    (Region.mk a n).hasByte c d.1 = true ∨ d ∈ m := by
  induction n generalizing m a v with
  | zero => exact .inr h
  | succ n ih =>
    have h8 := c.bytes_le
    simp only [Region.hasByte_iff] at *
    rcases ih h with h | h
    · exact .inl (by omega)
    · rcases Memory.mem_storeLE h with h | h
      · exact .inl (by simp only [slotAddr] at h; omega)
      · exact .inr h

end Sys2Proof.Machine
end

