-- ==== Sys2Proof/Laws/State.lean ====
section
/-! SUPPORT. One lemma per field per update of State, and what the derived readings of a state are after each update. -/

namespace Sys2Proof.Machine

/-! ### `State.memWrite` -/

@[simp] theorem State.memWrite_cfg (s : State) (a n v : Nat) : (s.memWrite a n v).cfg = s.cfg := rfl
@[simp] theorem State.memWrite_regs (s : State) (a n v : Nat) : (s.memWrite a n v).regs = s.regs := rfl
@[simp] theorem State.memWrite_status (s : State) (a n v : Nat) : (s.memWrite a n v).status = s.status := rfl
@[simp] theorem State.memWrite_cmd (s : State) (a n v : Nat) : (s.memWrite a n v).cmd = s.cmd := rfl
@[simp] theorem State.memWrite_rlo (s : State) (a n v : Nat) : (s.memWrite a n v).rlo = s.rlo := rfl
@[simp] theorem State.memWrite_rhi (s : State) (a n v : Nat) : (s.memWrite a n v).rhi = s.rhi := rfl
@[simp] theorem State.memWrite_passes (s : State) (a n v : Nat) : (s.memWrite a n v).passes = s.passes := rfl
@[simp] theorem State.memWrite_einfo (s : State) (a n v : Nat) : (s.memWrite a n v).einfo = s.einfo := rfl
@[simp] theorem State.memWrite_mem (s : State) (a n v : Nat) : (s.memWrite a n v).mem = s.mem.writeLimbs s.cfg a n v := rfl
@[simp] theorem State.memWrite_pend (s : State) (a n v : Nat) : (s.memWrite a n v).pend = s.pend := rfl
@[simp] theorem State.memWrite_epoch (s : State) (a n v : Nat) : (s.memWrite a n v).epoch = s.epoch := rfl
@[simp] theorem State.memWrite_draws (s : State) (a n v : Nat) : (s.memWrite a n v).draws = s.draws := rfl
@[simp] theorem State.memWrite_inbox (s : State) (a n v : Nat) : (s.memWrite a n v).inbox = s.inbox := rfl
@[simp] theorem State.memWrite_response (s : State) (a n v : Nat) : (s.memWrite a n v).response = s.response := rfl
@[simp] theorem State.memWrite_hostFault (s : State) (a n v : Nat) : (s.memWrite a n v).hostFault = s.hostFault := rfl

/-! ### `State.setLimb` -/

@[simp] theorem State.setLimb_cfg (s : State) (i v : Nat) : (s.setLimb i v).cfg = s.cfg := rfl
@[simp] theorem State.setLimb_regs (s : State) (i v : Nat) : (s.setLimb i v).regs = s.regs := rfl
@[simp] theorem State.setLimb_status (s : State) (i v : Nat) : (s.setLimb i v).status = s.status := rfl
@[simp] theorem State.setLimb_cmd (s : State) (i v : Nat) : (s.setLimb i v).cmd = s.cmd := rfl
@[simp] theorem State.setLimb_rlo (s : State) (i v : Nat) : (s.setLimb i v).rlo = s.rlo := rfl
@[simp] theorem State.setLimb_rhi (s : State) (i v : Nat) : (s.setLimb i v).rhi = s.rhi := rfl
@[simp] theorem State.setLimb_passes (s : State) (i v : Nat) : (s.setLimb i v).passes = s.passes := rfl
@[simp] theorem State.setLimb_einfo (s : State) (i v : Nat) : (s.setLimb i v).einfo = s.einfo := rfl
@[simp] theorem State.setLimb_mem (s : State) (i v : Nat) : (s.setLimb i v).mem = s.mem.writeLimb s.cfg i v := rfl
@[simp] theorem State.setLimb_pend (s : State) (i v : Nat) : (s.setLimb i v).pend = s.pend := rfl
@[simp] theorem State.setLimb_epoch (s : State) (i v : Nat) : (s.setLimb i v).epoch = s.epoch := rfl
@[simp] theorem State.setLimb_draws (s : State) (i v : Nat) : (s.setLimb i v).draws = s.draws := rfl
@[simp] theorem State.setLimb_inbox (s : State) (i v : Nat) : (s.setLimb i v).inbox = s.inbox := rfl
@[simp] theorem State.setLimb_response (s : State) (i v : Nat) : (s.setLimb i v).response = s.response := rfl
@[simp] theorem State.setLimb_hostFault (s : State) (i v : Nat) : (s.setLimb i v).hostFault = s.hostFault := rfl

/-! ### `State.setPair` -/

@[simp] theorem State.setPair_cfg (s : State) (lo hi : Nat) : (s.setPair lo hi).cfg = s.cfg := rfl
@[simp] theorem State.setPair_regs (s : State) (lo hi : Nat) : (s.setPair lo hi).regs = s.regs := rfl
@[simp] theorem State.setPair_status (s : State) (lo hi : Nat) : (s.setPair lo hi).status = s.status := rfl
@[simp] theorem State.setPair_cmd (s : State) (lo hi : Nat) : (s.setPair lo hi).cmd = s.cmd := rfl
@[simp] theorem State.setPair_rlo (s : State) (lo hi : Nat) : (s.setPair lo hi).rlo = limbReg s.cfg lo := rfl
@[simp] theorem State.setPair_rhi (s : State) (lo hi : Nat) : (s.setPair lo hi).rhi = limbReg s.cfg hi := rfl
@[simp] theorem State.setPair_passes (s : State) (lo hi : Nat) : (s.setPair lo hi).passes = s.passes := rfl
@[simp] theorem State.setPair_einfo (s : State) (lo hi : Nat) : (s.setPair lo hi).einfo = s.einfo := rfl
@[simp] theorem State.setPair_mem (s : State) (lo hi : Nat) : (s.setPair lo hi).mem = s.mem := rfl
@[simp] theorem State.setPair_pend (s : State) (lo hi : Nat) : (s.setPair lo hi).pend = s.pend := rfl
@[simp] theorem State.setPair_epoch (s : State) (lo hi : Nat) : (s.setPair lo hi).epoch = s.epoch := rfl
@[simp] theorem State.setPair_draws (s : State) (lo hi : Nat) : (s.setPair lo hi).draws = s.draws := rfl
@[simp] theorem State.setPair_inbox (s : State) (lo hi : Nat) : (s.setPair lo hi).inbox = s.inbox := rfl
@[simp] theorem State.setPair_response (s : State) (lo hi : Nat) : (s.setPair lo hi).response = s.response := rfl
@[simp] theorem State.setPair_hostFault (s : State) (lo hi : Nat) : (s.setPair lo hi).hostFault = s.hostFault := rfl

/-! ### `State.setPasses` -/

@[simp] theorem State.setPasses_cfg (s : State) (k : Nat) : (s.setPasses k).cfg = s.cfg := rfl
@[simp] theorem State.setPasses_regs (s : State) (k : Nat) : (s.setPasses k).regs = s.regs := rfl
@[simp] theorem State.setPasses_status (s : State) (k : Nat) : (s.setPasses k).status = s.status := rfl
@[simp] theorem State.setPasses_cmd (s : State) (k : Nat) : (s.setPasses k).cmd = s.cmd := rfl
@[simp] theorem State.setPasses_rlo (s : State) (k : Nat) : (s.setPasses k).rlo = s.rlo := rfl
@[simp] theorem State.setPasses_rhi (s : State) (k : Nat) : (s.setPasses k).rhi = s.rhi := rfl
@[simp] theorem State.setPasses_passes (s : State) (k : Nat) : (s.setPasses k).passes = BitVec.ofNat 32 k := rfl
@[simp] theorem State.setPasses_einfo (s : State) (k : Nat) : (s.setPasses k).einfo = s.einfo := rfl
@[simp] theorem State.setPasses_mem (s : State) (k : Nat) : (s.setPasses k).mem = s.mem := rfl
@[simp] theorem State.setPasses_pend (s : State) (k : Nat) : (s.setPasses k).pend = s.pend := rfl
@[simp] theorem State.setPasses_epoch (s : State) (k : Nat) : (s.setPasses k).epoch = s.epoch := rfl
@[simp] theorem State.setPasses_draws (s : State) (k : Nat) : (s.setPasses k).draws = s.draws := rfl
@[simp] theorem State.setPasses_inbox (s : State) (k : Nat) : (s.setPasses k).inbox = s.inbox := rfl
@[simp] theorem State.setPasses_response (s : State) (k : Nat) : (s.setPasses k).response = s.response := rfl
@[simp] theorem State.setPasses_hostFault (s : State) (k : Nat) : (s.setPasses k).hostFault = s.hostFault := rfl

/-! ### `State.flags` -/

@[simp] theorem State.flags_cfg (s : State) (c z : Bool) : (s.flags c z).cfg = s.cfg := rfl
@[simp] theorem State.flags_regs (s : State) (c z : Bool) : (s.flags c z).regs = s.regs := rfl
@[simp] theorem State.flags_status (s : State) (c z : Bool) : (s.flags c z).status = { s.status with c := c, z := z } := rfl
@[simp] theorem State.flags_cmd (s : State) (c z : Bool) : (s.flags c z).cmd = s.cmd := rfl
@[simp] theorem State.flags_rlo (s : State) (c z : Bool) : (s.flags c z).rlo = s.rlo := rfl
@[simp] theorem State.flags_rhi (s : State) (c z : Bool) : (s.flags c z).rhi = s.rhi := rfl
@[simp] theorem State.flags_passes (s : State) (c z : Bool) : (s.flags c z).passes = s.passes := rfl
@[simp] theorem State.flags_einfo (s : State) (c z : Bool) : (s.flags c z).einfo = s.einfo := rfl
@[simp] theorem State.flags_mem (s : State) (c z : Bool) : (s.flags c z).mem = s.mem := rfl
@[simp] theorem State.flags_pend (s : State) (c z : Bool) : (s.flags c z).pend = s.pend := rfl
@[simp] theorem State.flags_epoch (s : State) (c z : Bool) : (s.flags c z).epoch = s.epoch := rfl
@[simp] theorem State.flags_draws (s : State) (c z : Bool) : (s.flags c z).draws = s.draws := rfl
@[simp] theorem State.flags_inbox (s : State) (c z : Bool) : (s.flags c z).inbox = s.inbox := rfl
@[simp] theorem State.flags_response (s : State) (c z : Bool) : (s.flags c z).response = s.response := rfl
@[simp] theorem State.flags_hostFault (s : State) (c z : Bool) : (s.flags c z).hostFault = s.hostFault := rfl

/-! ### `State.raise` -/

@[simp] theorem State.raise_cfg (s : State) (e : ErrCode) : (s.raise e).cfg = s.cfg := rfl
@[simp] theorem State.raise_regs (s : State) (e : ErrCode) : (s.raise e).regs = s.regs := rfl
@[simp] theorem State.raise_status (s : State) (e : ErrCode) : (s.raise e).status = { s.status with busy := false, err := true, ecode := e.code } := rfl
@[simp] theorem State.raise_cmd (s : State) (e : ErrCode) : (s.raise e).cmd = s.cmd := rfl
@[simp] theorem State.raise_rlo (s : State) (e : ErrCode) : (s.raise e).rlo = s.rlo := rfl
@[simp] theorem State.raise_rhi (s : State) (e : ErrCode) : (s.raise e).rhi = s.rhi := rfl
@[simp] theorem State.raise_passes (s : State) (e : ErrCode) : (s.raise e).passes = s.passes := rfl
@[simp] theorem State.raise_einfo (s : State) (e : ErrCode) : (s.raise e).einfo = s.word := rfl
@[simp] theorem State.raise_mem (s : State) (e : ErrCode) : (s.raise e).mem = s.mem := rfl
@[simp] theorem State.raise_pend (s : State) (e : ErrCode) : (s.raise e).pend = none := rfl
@[simp] theorem State.raise_epoch (s : State) (e : ErrCode) : (s.raise e).epoch = s.epoch := rfl
@[simp] theorem State.raise_draws (s : State) (e : ErrCode) : (s.raise e).draws = s.draws := rfl
@[simp] theorem State.raise_inbox (s : State) (e : ErrCode) : (s.raise e).inbox = s.inbox := rfl
@[simp] theorem State.raise_response (s : State) (e : ErrCode) : (s.raise e).response = s.response := rfl
@[simp] theorem State.raise_hostFault (s : State) (e : ErrCode) : (s.raise e).hostFault = s.hostFault := rfl

/-! ### `State.clearErr` -/

@[simp] theorem State.clearErr_cfg (s : State) : s.clearErr.cfg = s.cfg := rfl
@[simp] theorem State.clearErr_regs (s : State) : s.clearErr.regs = s.regs := rfl
@[simp] theorem State.clearErr_status (s : State) : s.clearErr.status = { s.status with err := false, ecode := 0 } := rfl
@[simp] theorem State.clearErr_cmd (s : State) : s.clearErr.cmd = s.cmd := rfl
@[simp] theorem State.clearErr_rlo (s : State) : s.clearErr.rlo = s.rlo := rfl
@[simp] theorem State.clearErr_rhi (s : State) : s.clearErr.rhi = s.rhi := rfl
@[simp] theorem State.clearErr_passes (s : State) : s.clearErr.passes = s.passes := rfl
@[simp] theorem State.clearErr_einfo (s : State) : s.clearErr.einfo = s.einfo := rfl
@[simp] theorem State.clearErr_mem (s : State) : s.clearErr.mem = s.mem := rfl
@[simp] theorem State.clearErr_pend (s : State) : s.clearErr.pend = s.pend := rfl
@[simp] theorem State.clearErr_epoch (s : State) : s.clearErr.epoch = s.epoch := rfl
@[simp] theorem State.clearErr_draws (s : State) : s.clearErr.draws = s.draws := rfl
@[simp] theorem State.clearErr_inbox (s : State) : s.clearErr.inbox = s.inbox := rfl
@[simp] theorem State.clearErr_response (s : State) : s.clearErr.response = s.response := rfl
@[simp] theorem State.clearErr_hostFault (s : State) : s.clearErr.hostFault = s.hostFault := rfl

/-! ### `State.finish` -/

@[simp] theorem State.finish_cfg (s : State) : s.finish.cfg = s.cfg := rfl
@[simp] theorem State.finish_regs (s : State) : s.finish.regs = s.regs := rfl
@[simp] theorem State.finish_status (s : State) : s.finish.status = { s.status with busy := false, done := true } := rfl
@[simp] theorem State.finish_cmd (s : State) : s.finish.cmd = s.cmd := rfl
@[simp] theorem State.finish_rlo (s : State) : s.finish.rlo = s.rlo := rfl
@[simp] theorem State.finish_rhi (s : State) : s.finish.rhi = s.rhi := rfl
@[simp] theorem State.finish_passes (s : State) : s.finish.passes = s.passes := rfl
@[simp] theorem State.finish_einfo (s : State) : s.finish.einfo = s.einfo := rfl
@[simp] theorem State.finish_mem (s : State) : s.finish.mem = s.mem := rfl
@[simp] theorem State.finish_pend (s : State) : s.finish.pend = none := rfl
@[simp] theorem State.finish_epoch (s : State) : s.finish.epoch = s.epoch := rfl
@[simp] theorem State.finish_draws (s : State) : s.finish.draws = s.draws := rfl
@[simp] theorem State.finish_inbox (s : State) : s.finish.inbox = s.inbox := rfl
@[simp] theorem State.finish_response (s : State) : s.finish.response = s.response := rfl
@[simp] theorem State.finish_hostFault (s : State) : s.finish.hostFault = s.hostFault := rfl

/-! ### `State.accept` -/

@[simp] theorem State.accept_cfg (s : State) (d : DWord) : (s.accept d).cfg = s.cfg := rfl
@[simp] theorem State.accept_regs (s : State) (d : DWord) : (s.accept d).regs = s.regs := rfl
@[simp] theorem State.accept_status (s : State) (d : DWord) : (s.accept d).status = { s.status with busy := true, done := false } := rfl
@[simp] theorem State.accept_cmd (s : State) (d : DWord) : (s.accept d).cmd = d.setWidth 16 := rfl
@[simp] theorem State.accept_rlo (s : State) (d : DWord) : (s.accept d).rlo = s.rlo := rfl
@[simp] theorem State.accept_rhi (s : State) (d : DWord) : (s.accept d).rhi = s.rhi := rfl
@[simp] theorem State.accept_passes (s : State) (d : DWord) : (s.accept d).passes = s.passes := rfl
@[simp] theorem State.accept_einfo (s : State) (d : DWord) : (s.accept d).einfo = s.einfo := rfl
@[simp] theorem State.accept_mem (s : State) (d : DWord) : (s.accept d).mem = s.mem := rfl
@[simp] theorem State.accept_pend (s : State) (d : DWord) : (s.accept d).pend = some { data := d, snap := s.regs } := rfl
@[simp] theorem State.accept_epoch (s : State) (d : DWord) : (s.accept d).epoch = s.epoch := rfl
@[simp] theorem State.accept_draws (s : State) (d : DWord) : (s.accept d).draws = s.draws := rfl
@[simp] theorem State.accept_inbox (s : State) (d : DWord) : (s.accept d).inbox = s.inbox := rfl
@[simp] theorem State.accept_response (s : State) (d : DWord) : (s.accept d).response = s.response := rfl
@[simp] theorem State.accept_hostFault (s : State) (d : DWord) : (s.accept d).hostFault = s.hostFault := rfl

/-! ### `State.respond` -/

@[simp] theorem State.respond_cfg (s : State) (r : Response) : (s.respond r).cfg = s.cfg := rfl
@[simp] theorem State.respond_regs (s : State) (r : Response) : (s.respond r).regs = s.regs := rfl
@[simp] theorem State.respond_status (s : State) (r : Response) : (s.respond r).status = s.status := rfl
@[simp] theorem State.respond_cmd (s : State) (r : Response) : (s.respond r).cmd = s.cmd := rfl
@[simp] theorem State.respond_rlo (s : State) (r : Response) : (s.respond r).rlo = s.rlo := rfl
@[simp] theorem State.respond_rhi (s : State) (r : Response) : (s.respond r).rhi = s.rhi := rfl
@[simp] theorem State.respond_passes (s : State) (r : Response) : (s.respond r).passes = s.passes := rfl
@[simp] theorem State.respond_einfo (s : State) (r : Response) : (s.respond r).einfo = s.einfo := rfl
@[simp] theorem State.respond_mem (s : State) (r : Response) : (s.respond r).mem = s.mem := rfl
@[simp] theorem State.respond_pend (s : State) (r : Response) : (s.respond r).pend = s.pend := rfl
@[simp] theorem State.respond_epoch (s : State) (r : Response) : (s.respond r).epoch = s.epoch := rfl
@[simp] theorem State.respond_draws (s : State) (r : Response) : (s.respond r).draws = s.draws := rfl
@[simp] theorem State.respond_inbox (s : State) (r : Response) : (s.respond r).inbox = s.inbox := rfl
@[simp] theorem State.respond_response (s : State) (r : Response) : (s.respond r).response = r := rfl
@[simp] theorem State.respond_hostFault (s : State) (r : Response) : (s.respond r).hostFault = s.hostFault := rfl

/-! ### `State.setOvr` -/

@[simp] theorem State.setOvr_cfg (s : State) : s.setOvr.cfg = s.cfg := rfl
@[simp] theorem State.setOvr_regs (s : State) : s.setOvr.regs = s.regs := rfl
@[simp] theorem State.setOvr_status (s : State) : s.setOvr.status = { s.status with ovr := true } := rfl
@[simp] theorem State.setOvr_cmd (s : State) : s.setOvr.cmd = s.cmd := rfl
@[simp] theorem State.setOvr_rlo (s : State) : s.setOvr.rlo = s.rlo := rfl
@[simp] theorem State.setOvr_rhi (s : State) : s.setOvr.rhi = s.rhi := rfl
@[simp] theorem State.setOvr_passes (s : State) : s.setOvr.passes = s.passes := rfl
@[simp] theorem State.setOvr_einfo (s : State) : s.setOvr.einfo = s.einfo := rfl
@[simp] theorem State.setOvr_mem (s : State) : s.setOvr.mem = s.mem := rfl
@[simp] theorem State.setOvr_pend (s : State) : s.setOvr.pend = s.pend := rfl
@[simp] theorem State.setOvr_epoch (s : State) : s.setOvr.epoch = s.epoch := rfl
@[simp] theorem State.setOvr_draws (s : State) : s.setOvr.draws = s.draws := rfl
@[simp] theorem State.setOvr_inbox (s : State) : s.setOvr.inbox = s.inbox := rfl
@[simp] theorem State.setOvr_response (s : State) : s.setOvr.response = s.response := rfl
@[simp] theorem State.setOvr_hostFault (s : State) : s.setOvr.hostFault = s.hostFault := rfl

/-! ### The bytes and limbs read after an update that leaves memory alone -/

/-- Two states with the same build, memory and reset count read the same byte everywhere. -/
theorem State.byteAt_congr {s t : State} (hm : t.mem = s.mem) (he : t.epoch = s.epoch) (x : Nat) :
    t.byteAt x = s.byteAt x := by
  simp only [State.byteAt, hm, he]

/-- … and the same bytes. -/
theorem State.loadLE_congr_mem {s t : State} (hm : t.mem = s.mem) (he : t.epoch = s.epoch) (x k : Nat) :
    t.loadLE x k = s.loadLE x k := by
  induction k generalizing x with
  | zero => rfl
  | succ k ih => simp only [State.loadLE, ih, State.byteAt_congr hm he]

/-- … and the same limbs. -/
theorem State.limb_congr {s t : State} (hc : t.cfg = s.cfg) (hm : t.mem = s.mem) (he : t.epoch = s.epoch) (i : Nat) :
    t.limb i = s.limb i := by
  simp only [State.limb, hc, State.loadLE_congr_mem hm he]

/-- … and the same multi-limb values. -/
theorem State.memRead_congr_mem {s t : State} (hc : t.cfg = s.cfg) (hm : t.mem = s.mem) (he : t.epoch = s.epoch)
    (a n : Nat) : t.memRead a n = s.memRead a n := by
  induction n generalizing a with
  | zero => rfl
  | succ n ih => simp only [State.memRead, ih, State.limb_congr hc hm he, hc]

@[simp] theorem State.setPair_byteAt (s : State) (lo hi : Nat) (x : Nat) : (s.setPair lo hi).byteAt x = s.byteAt x := rfl
@[simp] theorem State.setPair_limb (s : State) (lo hi : Nat) (i : Nat) : (s.setPair lo hi).limb i = s.limb i :=
  State.limb_congr (s := s) (t := (s.setPair lo hi)) rfl rfl rfl i
@[simp] theorem State.setPair_memRead (s : State) (lo hi : Nat) (b m : Nat) : (s.setPair lo hi).memRead b m = s.memRead b m :=
  State.memRead_congr_mem (s := s) (t := (s.setPair lo hi)) rfl rfl rfl b m
@[simp] theorem State.setPasses_byteAt (s : State) (k : Nat) (x : Nat) : (s.setPasses k).byteAt x = s.byteAt x := rfl
@[simp] theorem State.setPasses_limb (s : State) (k : Nat) (i : Nat) : (s.setPasses k).limb i = s.limb i :=
  State.limb_congr (s := s) (t := (s.setPasses k)) rfl rfl rfl i
@[simp] theorem State.setPasses_memRead (s : State) (k : Nat) (b m : Nat) : (s.setPasses k).memRead b m = s.memRead b m :=
  State.memRead_congr_mem (s := s) (t := (s.setPasses k)) rfl rfl rfl b m
@[simp] theorem State.flags_byteAt (s : State) (c z : Bool) (x : Nat) : (s.flags c z).byteAt x = s.byteAt x := rfl
@[simp] theorem State.flags_limb (s : State) (c z : Bool) (i : Nat) : (s.flags c z).limb i = s.limb i :=
  State.limb_congr (s := s) (t := (s.flags c z)) rfl rfl rfl i
@[simp] theorem State.flags_memRead (s : State) (c z : Bool) (b m : Nat) : (s.flags c z).memRead b m = s.memRead b m :=
  State.memRead_congr_mem (s := s) (t := (s.flags c z)) rfl rfl rfl b m
@[simp] theorem State.raise_byteAt (s : State) (e : ErrCode) (x : Nat) : (s.raise e).byteAt x = s.byteAt x := rfl
@[simp] theorem State.raise_limb (s : State) (e : ErrCode) (i : Nat) : (s.raise e).limb i = s.limb i :=
  State.limb_congr (s := s) (t := (s.raise e)) rfl rfl rfl i
@[simp] theorem State.raise_memRead (s : State) (e : ErrCode) (b m : Nat) : (s.raise e).memRead b m = s.memRead b m :=
  State.memRead_congr_mem (s := s) (t := (s.raise e)) rfl rfl rfl b m
@[simp] theorem State.clearErr_byteAt (s : State) (x : Nat) : s.clearErr.byteAt x = s.byteAt x := rfl
@[simp] theorem State.clearErr_limb (s : State) (i : Nat) : s.clearErr.limb i = s.limb i :=
  State.limb_congr (s := s) (t := s.clearErr) rfl rfl rfl i
@[simp] theorem State.clearErr_memRead (s : State) (b m : Nat) : s.clearErr.memRead b m = s.memRead b m :=
  State.memRead_congr_mem (s := s) (t := s.clearErr) rfl rfl rfl b m
@[simp] theorem State.finish_byteAt (s : State) (x : Nat) : s.finish.byteAt x = s.byteAt x := rfl
@[simp] theorem State.finish_limb (s : State) (i : Nat) : s.finish.limb i = s.limb i :=
  State.limb_congr (s := s) (t := s.finish) rfl rfl rfl i
@[simp] theorem State.finish_memRead (s : State) (b m : Nat) : s.finish.memRead b m = s.memRead b m :=
  State.memRead_congr_mem (s := s) (t := s.finish) rfl rfl rfl b m
@[simp] theorem State.accept_byteAt (s : State) (d : DWord) (x : Nat) : (s.accept d).byteAt x = s.byteAt x := rfl
@[simp] theorem State.accept_limb (s : State) (d : DWord) (i : Nat) : (s.accept d).limb i = s.limb i :=
  State.limb_congr (s := s) (t := (s.accept d)) rfl rfl rfl i
@[simp] theorem State.accept_memRead (s : State) (d : DWord) (b m : Nat) : (s.accept d).memRead b m = s.memRead b m :=
  State.memRead_congr_mem (s := s) (t := (s.accept d)) rfl rfl rfl b m
@[simp] theorem State.respond_byteAt (s : State) (r : Response) (x : Nat) : (s.respond r).byteAt x = s.byteAt x := rfl
@[simp] theorem State.respond_limb (s : State) (r : Response) (i : Nat) : (s.respond r).limb i = s.limb i :=
  State.limb_congr (s := s) (t := (s.respond r)) rfl rfl rfl i
@[simp] theorem State.respond_memRead (s : State) (r : Response) (b m : Nat) : (s.respond r).memRead b m = s.memRead b m :=
  State.memRead_congr_mem (s := s) (t := (s.respond r)) rfl rfl rfl b m
@[simp] theorem State.setOvr_byteAt (s : State) (x : Nat) : s.setOvr.byteAt x = s.byteAt x := rfl
@[simp] theorem State.setOvr_limb (s : State) (i : Nat) : s.setOvr.limb i = s.limb i :=
  State.limb_congr (s := s) (t := s.setOvr) rfl rfl rfl i
@[simp] theorem State.setOvr_memRead (s : State) (b m : Nat) : s.setOvr.memRead b m = s.memRead b m :=
  State.memRead_congr_mem (s := s) (t := s.setOvr) rfl rfl rfl b m

/-! ### The operands after an update that leaves the latch alone -/

@[simp] theorem State.memWrite_src (s : State) (a n v : Nat) : (s.memWrite a n v).src = s.src := rfl
@[simp] theorem State.memWrite_regionA (s : State) (a n v : Nat) : (s.memWrite a n v).regionA = s.regionA := rfl
@[simp] theorem State.memWrite_regionC (s : State) (a n v : Nat) : (s.memWrite a n v).regionC = s.regionC := rfl
@[simp] theorem State.setLimb_src (s : State) (i v : Nat) : (s.setLimb i v).src = s.src := rfl
@[simp] theorem State.setLimb_regionA (s : State) (i v : Nat) : (s.setLimb i v).regionA = s.regionA := rfl
@[simp] theorem State.setLimb_regionC (s : State) (i v : Nat) : (s.setLimb i v).regionC = s.regionC := rfl
@[simp] theorem State.setPair_src (s : State) (lo hi : Nat) : (s.setPair lo hi).src = s.src := rfl
@[simp] theorem State.setPair_regionA (s : State) (lo hi : Nat) : (s.setPair lo hi).regionA = s.regionA := rfl
@[simp] theorem State.setPair_regionC (s : State) (lo hi : Nat) : (s.setPair lo hi).regionC = s.regionC := rfl
@[simp] theorem State.setPasses_src (s : State) (k : Nat) : (s.setPasses k).src = s.src := rfl
@[simp] theorem State.setPasses_regionA (s : State) (k : Nat) : (s.setPasses k).regionA = s.regionA := rfl
@[simp] theorem State.setPasses_regionC (s : State) (k : Nat) : (s.setPasses k).regionC = s.regionC := rfl
@[simp] theorem State.flags_src (s : State) (c z : Bool) : (s.flags c z).src = s.src := rfl
@[simp] theorem State.flags_regionA (s : State) (c z : Bool) : (s.flags c z).regionA = s.regionA := rfl
@[simp] theorem State.flags_regionC (s : State) (c z : Bool) : (s.flags c z).regionC = s.regionC := rfl
@[simp] theorem State.clearErr_src (s : State) : s.clearErr.src = s.src := rfl
@[simp] theorem State.clearErr_regionA (s : State) : s.clearErr.regionA = s.regionA := rfl
@[simp] theorem State.clearErr_regionC (s : State) : s.clearErr.regionC = s.regionC := rfl
@[simp] theorem State.respond_src (s : State) (r : Response) : (s.respond r).src = s.src := rfl
@[simp] theorem State.respond_regionA (s : State) (r : Response) : (s.respond r).regionA = s.regionA := rfl
@[simp] theorem State.respond_regionC (s : State) (r : Response) : (s.respond r).regionC = s.regionC := rfl
@[simp] theorem State.setOvr_src (s : State) : s.setOvr.src = s.src := rfl
@[simp] theorem State.setOvr_regionA (s : State) : s.setOvr.regionA = s.regionA := rfl
@[simp] theorem State.setOvr_regionC (s : State) : s.setOvr.regionC = s.regionC := rfl

/-! ### The interrupt output -/

/-- Completion raises irq exactly when it is enabled (60_exceptions.md R270). -/
@[simp] theorem State.finish_irq (s : State) : s.finish.irq = s.regs.ctrl.ie := by
  simp [State.irq]

@[simp] theorem State.raise_irq (s : State) (e : ErrCode) : (s.raise e).irq = s.regs.ctrl.ie := by
  simp [State.irq]

end Sys2Proof.Machine
end

