-- ==== Sys2Proof/Laws/Ops.lean ====
section
/-! SUPPORT. One lemma per shared operation of the commands, the bus and the step, saying once everything it can do. -/

namespace Sys2Proof.Machine

/-! ### Checks -/

/-- A guarded command either takes its first error or has its effect. -/
theorem State.guarded_cases (s : State) (err : Option ErrCode) (f : State → State) :
    (∃ e, err = some e ∧ s.guarded err f = s.raise e) ∨ (err = none ∧ s.guarded err f = f s) := by
  cases err with
  | none => exact .inr ⟨rfl, rfl⟩
  | some e => exact .inl ⟨e, rfl, rfl⟩

/-- The checks of ADDL and SUBL pass exactly on a nonempty region in range. -/
theorem State.inPlaceError_none_iff (s : State) :
    s.inPlaceError = none ↔ s.regionA.len ≠ 0 ∧ s.regionA.base + s.regionA.len ≤ s.cfg.depth := by
  simp only [State.inPlaceError]
  split <;> simp_all

/-- The checks on region C pass exactly on a nonempty region that is long enough and in range. -/
theorem State.destinationError_none_iff (s : State) (need : Nat) :
    s.destinationError need = none ↔
      s.regionC.len ≠ 0 ∧ need ≤ s.regionC.len ∧ s.regionC.base + s.regionC.len ≤ s.cfg.depth := by
  simp only [State.destinationError]
  split
  · simp; omega
  · split <;> simp <;> omega

/-- The checks on regions A and C pass exactly when both are nonempty, C is long enough, both are in range, and they do not
overlap. -/
theorem State.sourceDestinationError_none_iff (s : State) (need : Nat) :
    s.sourceDestinationError need = none ↔
      s.regionA.len ≠ 0 ∧ s.regionC.len ≠ 0 ∧ need ≤ s.regionC.len
        ∧ s.regionA.base + s.regionA.len ≤ s.cfg.depth ∧ s.regionC.base + s.regionC.len ≤ s.cfg.depth
        ∧ (s.regionC.base + s.regionC.len ≤ s.regionA.base ∨ s.regionA.base + s.regionA.len ≤ s.regionC.base) := by
  simp only [State.sourceDestinationError]
  split
  · simp; omega
  · split
    · simp; omega
    · split
      · split <;> simp <;> omega
      · simp; omega

/-- BADP is raised exactly when p < 2. -/
theorem State.exponentError_none_iff (s : State) : s.exponentError = none ↔ 2 ≤ s.exponent := by
  simp only [State.exponentError]
  split <;> simp <;> omega

/-- Two checks in order: none fails exactly when neither does. -/
theorem orElse_none_iff {a b : Option ErrCode} : (a <|> b) = none ↔ a = none ∧ b = none := by
  cases a <;> simp

/-! ### Ends of commands -/

/-- A command that writes region C: everything its end does. -/
theorem State.writeResult_spec (s : State) (v : Nat) :
    s.writeResult v =
      { s with
        mem := s.mem.writeLimbs s.cfg s.regionC.base s.regionC.len v
        status := { s.status with busy := false, done := true, c := false, z := v == 0 }
        pend := none } := rfl

/-- What region C then holds. -/
theorem State.memRead_writeResult (s : State) (v : Nat) :
    (s.writeResult v).memRead s.regionC.base s.regionC.len = v % 2 ^ (s.regionC.len * s.cfg.W) := by
  simp only [State.writeResult, State.finish_memRead, State.flags_memRead, State.memRead_memWrite_same]

/-- ADDL and SUBL end in CAPACITY or in the result. -/
theorem State.writeInPlace_cases (s : State) (r : Nat) (out : Bool) :
    (out = true ∧ s.src.ctrl.capchk = true ∧ s.writeInPlace r out = s.raise .capacity) ∨
    ((out = false ∨ s.src.ctrl.capchk = false) ∧
      s.writeInPlace r out =
        { s with
          mem := s.mem.writeLimbs s.cfg s.regionA.base s.regionA.len r
          status := { s.status with busy := false, done := true, c := out, z := r == 0 }
          pend := none }) := by
  unfold State.writeInPlace
  cases out <;> cases h : s.src.ctrl.capchk <;> simp <;> rfl

/-- Every command answers a next state, and either takes an error or completes. -/
theorem exec_next (i : Instr) (s : State) : ∃ t, exec i s = .next t := by
  cases i <;> exact ⟨_, rfl⟩

/-- Everything a command can do: it enters the error state and writes nothing else, or it writes nothing, the result pair, or the
limbs of one region that is in range (with PASSES, for two of them), and completes. -/
theorem exec_cases (i : Instr) (s : State) :
    (∃ e, exec i s = .next (s.raise e)) ∨ exec i s = .next s.finish ∨
    (∃ lo hi, exec i s = .next (s.setPair lo hi).finish) ∨
    (s.regionC.inRange s.cfg ∧
      ((∃ v, exec i s = .next (s.writeResult v)) ∨ ∃ k v, exec i s = .next ((s.setPasses k).writeResult v))) ∨
    (s.regionA.inRange s.cfg ∧
      ∃ r out, exec i s = .next ((s.memWrite s.regionA.base s.regionA.len r).flags out (r == 0)).finish) := by
  have hA : ∀ r out, s.inPlaceError = none →
      (∃ e, s.writeInPlace r out = s.raise e) ∨ s.regionA.inRange s.cfg ∧
        s.writeInPlace r out = ((s.memWrite s.regionA.base s.regionA.len r).flags out (r == 0)).finish := by
    intro r out h
    rcases s.writeInPlace_cases r out with ⟨_, _, e⟩ | ⟨_, e⟩
    · exact .inl ⟨_, e⟩
    · exact .inr ⟨(s.inPlaceError_none_iff.1 h).2, e⟩
  cases i with
  | nop => exact .inr (.inl rfl)
  | kadd | ksub | kmul => exact .inr (.inr (.inl ⟨_, _, rfl⟩))
  | kodd off =>
    rcases s.guarded_cases (offsetError s.cfg off) (fun t => (t.setPair (oddWindow t.cfg.W t.opA t.opB off) 0).finish)
      with ⟨e, _, h⟩ | ⟨_, h⟩
    · exact .inl ⟨e, congrArg _ h⟩
    · exact .inr (.inr (.inl ⟨_, _, congrArg _ h⟩))
  | addl =>
    simp only [exec, execAddl]
    rcases s.guarded_cases s.inPlaceError _ with ⟨e, _, h⟩ | ⟨h0, h⟩ <;> rw [h]
    · exact .inl ⟨e, rfl⟩
    · rcases hA _ _ h0 with ⟨e, h⟩ | ⟨h1, h⟩ <;> rw [h]
      · exact .inl ⟨e, rfl⟩
      · exact .inr (.inr (.inr (.inr ⟨h1, _, _, rfl⟩)))
  | subl =>
    simp only [exec, execSubl]
    rcases s.guarded_cases s.inPlaceError _ with ⟨e, _, h⟩ | ⟨h0, h⟩ <;> rw [h]
    · exact .inl ⟨e, rfl⟩
    · rcases hA _ _ h0 with ⟨e, h⟩ | ⟨h1, h⟩ <;> rw [h]
      · exact .inl ⟨e, rfl⟩
      · exact .inr (.inr (.inr (.inr ⟨h1, _, _, rfl⟩)))
  | sqr =>
    simp only [exec, execSqr]
    rcases s.guarded_cases (s.sourceDestinationError (2 * s.regionA.len)) _ with ⟨e, _, h⟩ | ⟨h0, h⟩ <;> rw [h]
    · exact .inl ⟨e, rfl⟩
    · exact .inr (.inr (.inr (.inl ⟨((s.sourceDestinationError_none_iff _).1 h0).2.2.2.2.1, .inl ⟨_, rfl⟩⟩)))
  | red =>
    simp only [exec, execRed]
    rcases s.guarded_cases (s.exponentError <|> s.sourceDestinationError (mpn s.cfg s.exponent)) _
      with ⟨e, _, h⟩ | ⟨h0, h⟩ <;> rw [h]
    · exact .inl ⟨e, rfl⟩
    · exact .inr (.inr (.inr (.inl
        ⟨((s.sourceDestinationError_none_iff _).1 (orElse_none_iff.1 h0).2).2.2.2.2.1, .inr ⟨_, _, rfl⟩⟩)))
  | rpass =>
    simp only [exec, execRpass]
    rcases s.guarded_cases (s.exponentError <|> s.sourceDestinationError s.regionA.len) _
      with ⟨e, _, h⟩ | ⟨h0, h⟩ <;> rw [h]
    · exact .inl ⟨e, rfl⟩
    · exact .inr (.inr (.inr (.inl
        ⟨((s.sourceDestinationError_none_iff _).1 (orElse_none_iff.1 h0).2).2.2.2.2.1, .inr ⟨_, _, rfl⟩⟩)))
  | mkmp =>
    simp only [exec, execMkmp]
    rcases s.guarded_cases (s.exponentError <|> s.destinationError (mpn s.cfg s.exponent)) _
      with ⟨e, _, h⟩ | ⟨h0, h⟩ <;> rw [h]
    · exact .inl ⟨e, rfl⟩
    · exact .inr (.inr (.inr (.inl ⟨((s.destinationError_none_iff _).1 (orElse_none_iff.1 h0).2).2.2, .inl ⟨_, rfl⟩⟩)))
  | clr =>
    simp only [exec, execClr]
    rcases s.guarded_cases (s.destinationError 0) _ with ⟨e, _, h⟩ | ⟨h0, h⟩ <;> rw [h]
    · exact .inl ⟨e, rfl⟩
    · exact .inr (.inr (.inr (.inl ⟨((s.destinationError_none_iff _).1 h0).2.2, .inl ⟨_, rfl⟩⟩)))

/-! ### The step -/

/-- The block's turn: idle, an illegal word, or a command performed. -/
theorem State.blockTurn_cases (s : State) :
    (s.pend = none ∧ s.blockTurn = .next s) ∨
    (∃ q, s.pend = some q ∧
      ((∃ r, decode q.data = .error r ∧ s.blockTurn = .next (s.raise .illegalCmd)) ∨
        (∃ i, decode q.data = .ok i ∧ s.blockTurn = exec i s))) := by
  unfold State.blockTurn State.fetch
  cases hp : s.pend with
  | none => exact .inl ⟨rfl, rfl⟩
  | some q =>
    refine .inr ⟨q, rfl, ?_⟩
    cases hd : decode q.data with
    | error r => exact .inl ⟨r, rfl, by simp [hd]⟩
    | ok i => exact .inr ⟨i, rfl, by simp [hd]⟩

/-- A step is the block's turn on an empty inbox, else the next event. -/
theorem step_cases (s : State) :
    (s.inbox = [] ∧ step s = s.blockTurn) ∨
    (∃ e rest, s.inbox = e :: rest ∧ step s = State.handle { s with inbox := rest } e) := by
  unfold step
  cases h : s.inbox with
  | nil => exact .inl ⟨rfl, rfl⟩
  | cons e rest => exact .inr ⟨e, rest, rfl, rfl⟩

/-- A host access faults outside the window, is refused by the bus, reads, or writes. -/
theorem State.access_cases (s : State) (a : Access) :
    (inWindow s.cfg a.addr = false ∧ s.access a = .fault (.outsideWindow a.addr)) ∨
    (inWindow s.cfg a.addr = true ∧ permitted (a.addr - s.cfg.hostBase) a.bytes = false ∧
      s.access a = .next (s.refuseAccess a)) ∨
    (inWindow s.cfg a.addr = true ∧ permitted (a.addr - s.cfg.hostBase) a.bytes = true ∧
      ((∃ x n, a = .read x n ∧ s.access a = .next (s.hostRead (target s.cfg (x - s.cfg.hostBase)))) ∨
       (∃ x n d, a = .write x n d ∧
          s.access a =
            .next ((s.hostWrite (target s.cfg (x - s.cfg.hostBase)) d).respond .ack)))) := by
  unfold State.access
  cases hw : inWindow s.cfg a.addr with
  | false => exact .inl ⟨rfl, rfl⟩
  | true =>
    cases hp : permitted (a.addr - s.cfg.hostBase) a.bytes with
    | false => exact .inr (.inl ⟨rfl, rfl, by simp⟩)
    | true =>
      refine .inr (.inr ⟨rfl, rfl, ?_⟩)
      cases a with
      | read x n => exact .inl ⟨x, n, rfl, by simp⟩
      | write x n d => exact .inr ⟨x, n, d, rfl, by simp⟩

/-- A permitted write: W1C of STATUS at any time; else dropped while BUSY = 1; else a command issued or a target written. -/
theorem State.hostWrite_cases (s : State) (t : Target) (d : DWord) :
    (t = .status ∧ s.hostWrite t d = s.writeStatus d) ∨
    (t ≠ .status ∧ s.status.busy = true ∧ s.hostWrite t d = s.setOvr) ∨
    (t = .cmd ∧ s.status.busy = false ∧ s.hostWrite t d = s.issue d) ∨
    (t ≠ .status ∧ t ≠ .cmd ∧ s.status.busy = false ∧ s.hostWrite t d = s.writeTarget t d) := by
  cases hb : s.status.busy <;> cases t <;> simp [State.hostWrite, hb]

end Sys2Proof.Machine
end

