-- ==== Sys2Proof/Laws/Bus.lean ====
section
/-! SUPPORT. The host's side: where an offset leads, what the registers of width W keep, what a permitted write leaves alone, and
runs of several steps. -/

namespace Sys2Proof.Machine

/-! ### Offsets -/

/-- No register lies at 0x090 or above (10_state.md R22). -/
theorem regMap_lookup_none {off : Nat} (h : 0x090 ≤ off) : regMap.lookup off = none := by
  rw [List.lookup_eq_none_iff]
  intro p hp
  simp only [regMap, List.mem_cons, List.not_mem_nil, or_false] at hp
  rcases hp with rfl | rfl | rfl | rfl | rfl | rfl | rfl | rfl | rfl | rfl | rfl | rfl | rfl | rfl | rfl | rfl | rfl | rfl <;>
    simp <;> omega

/-- Above the registers an offset leads to a slot or is reserved (20_memory.md R72, R74). -/
theorem target_above {c : Config} {off : Nat} (h : 0x090 ≤ off) :
    target c off =
      if slotAddr 0 ≤ off ∧ off < slotAddr c.depth then .slot ((off - slotAddr 0) / 8) else .reserved := by
  unfold target
  rw [regMap_lookup_none h]

/-- Every slot an offset leads to exists. -/
theorem target_slot_lt {c : Config} {off i : Nat} (h : target c off = .slot i) : i < c.depth := by
  unfold target at h
  split at h
  next t ht =>
    subst h
    obtain ⟨l1, l2, e, _⟩ := List.lookup_eq_some_iff.1 ht
    have : (off, Target.slot i) ∈ regMap := by rw [e]; simp
    simp [regMap] at this
  next =>
    split at h
    next => injection h with h; simp only [slotAddr] at *; omega
    next => cases h

/-! ### Registers of width W -/

theorem limbVal_lt (c : Config) (v : DWord) : limbVal c v < 2 ^ c.W := Nat.mod_lt _ (Nat.two_pow_pos _)

/-- A limb fits 64 bits. -/
theorem lt_two_pow_64 (c : Config) {v : Nat} (h : v < 2 ^ c.W) : v < 2 ^ 64 :=
  lt_of_lt_of_le h (Nat.pow_le_pow_right (by decide) c.W_le)

/-- What a register of width W holds after a write of `v` (10_state.md R37). -/
theorem limbReg_toNat (c : Config) (v : Nat) : (limbReg c v).toNat = v % 2 ^ c.W := by
  simp only [limbReg, BitVec.toNat_ofNat]
  exact Nat.mod_eq_of_lt (lt_two_pow_64 c (Nat.mod_lt _ (Nat.two_pow_pos _)))

theorem limbVal_limbReg (c : Config) (v : Nat) : limbVal c (limbReg c v) = v % 2 ^ c.W := by
  rw [limbVal, limbReg_toNat, Nat.mod_mod]

/-! ### Reads and writes -/

/-- What a target reads as does not depend on the events to come. -/
@[simp] theorem State.current_inbox (s : State) (rest : List Event) (t : Target) :
    State.current { s with inbox := rest } t = s.current t := by
  cases t
  case slot i =>
    simp only [State.current]
    rw [State.limb_congr (s := s) (t := { s with inbox := rest }) rfl rfl rfl]
  all_goals rfl

/-- What every permitted write leaves alone. -/
theorem State.hostWrite_frame (s : State) (t : Target) (d : DWord) :
    (s.hostWrite t d).cfg = s.cfg ∧ (s.hostWrite t d).hostFault = s.hostFault
      ∧ (s.hostWrite t d).inbox = s.inbox ∧ (s.hostWrite t d).epoch = s.epoch
      ∧ (s.hostWrite t d).rlo = s.rlo ∧ (s.hostWrite t d).rhi = s.rhi
      ∧ (s.hostWrite t d).passes = s.passes ∧ (s.hostWrite t d).einfo = s.einfo := by
  rcases s.hostWrite_cases t d with ⟨_, e⟩ | ⟨_, _, e⟩ | ⟨_, _, e⟩ | ⟨_, _, _, e⟩ <;> rw [e]
  · unfold State.writeStatus; split <;> exact ⟨rfl, rfl, rfl, rfl, rfl, rfl, rfl, rfl⟩
  · exact ⟨rfl, rfl, rfl, rfl, rfl, rfl, rfl, rfl⟩
  · unfold State.issue; split <;> exact ⟨rfl, rfl, rfl, rfl, rfl, rfl, rfl, rfl⟩
  · cases t <;> exact ⟨rfl, rfl, rfl, rfl, rfl, rfl, rfl, rfl⟩

/-! ### Commands and runs -/

/-- What every command leaves alone, and how it leaves the protocol bits and the latch. -/
theorem exec_frame {i : Instr} {s t : State} (h : exec i s = .next t) :
    t.cfg = s.cfg ∧ t.regs = s.regs ∧ t.cmd = s.cmd ∧ t.inbox = s.inbox ∧ t.epoch = s.epoch ∧ t.draws = s.draws
      ∧ t.response = s.response ∧ t.hostFault = s.hostFault ∧ t.pend = none ∧ t.status.busy = false
      ∧ t.status.ovr = s.status.ovr := by
  rcases exec_cases i s with ⟨e, h1⟩ | h1 | ⟨lo, hi, h1⟩ | ⟨_, ⟨v, h1⟩ | ⟨k, v, h1⟩⟩ | ⟨_, r, o, h1⟩ <;> rw [h1] at h <;>
    cases h <;> exact ⟨rfl, rfl, rfl, rfl, rfl, rfl, rfl, rfl, rfl, rfl, rfl⟩

/-- A run goes on after a step that answers a next state. -/
theorem run_of_next (M : Host.Core) {s t : M.State} (h : M.step s = .next t) (n : Nat) :
    M.run (n + 1) s = M.run n t := by
  simp only [Host.Core.run, h]

theorem core_run_of_next {s t : State} (h : step s = .next t) (n : Nat) :
    Sys2Proof.core.run (n + 1) s = Sys2Proof.core.run n t :=
  run_of_next Sys2Proof.core h n

end Sys2Proof.Machine
end

