-- ==== Sys2Proof/Laws/Limbs.lean ====
section
/-! SUPPORT. Limb lists: the value they hold, and how a region's limbs and its value determine each other. -/

namespace Sys2Proof.Machine

/-- Every limb of a list fits the width. -/
def LimbsFit (w : Nat) (xs : List Nat) : Prop := ∀ x ∈ xs, x < 2 ^ w

theorem LimbsFit.tail {w x : Nat} {xs : List Nat} (h : LimbsFit w (x :: xs)) : LimbsFit w xs :=
  fun y hy => h y (List.mem_cons_of_mem _ hy)

theorem limbsVal_lt {w : Nat} {xs : List Nat} (h : LimbsFit w xs) : limbsVal w xs < 2 ^ (xs.length * w) := by
  induction xs with
  | nil => simp [limbsVal]
  | cons x xs ih =>
    have h1 := ih h.tail
    have h2 := h x (by simp)
    have e : 2 ^ ((x :: xs).length * w) = 2 ^ w * 2 ^ (xs.length * w) := by
      rw [← pow_add]; congr 1; simp only [List.length_cons]; ring
    rw [e]
    simp only [limbsVal]
    nlinarith

/-- Equal values of equally many limbs come from equal limbs. -/
theorem limbsVal_inj {w : Nat} {xs ys : List Nat} (hx : LimbsFit w xs) (hy : LimbsFit w ys)
    (hl : xs.length = ys.length) (h : limbsVal w xs = limbsVal w ys) : xs = ys := by
  induction xs generalizing ys with
  | nil => exact (List.length_eq_zero_iff.1 hl.symm).symm
  | cons x xs ih =>
    cases ys with
    | nil => simp at hl
    | cons y ys =>
      simp only [limbsVal] at h
      have h1 := hx x (by simp)
      have h2 := hy y (by simp)
      have e1 := congrArg (· % 2 ^ w) h
      have e2 := congrArg (· / 2 ^ w) h
      simp only [Nat.add_mul_mod_self_left, Nat.mod_eq_of_lt h1, Nat.mod_eq_of_lt h2] at e1
      have hp : 0 < 2 ^ w := by positivity
      simp only [Nat.add_mul_div_left _ _ hp, Nat.div_eq_of_lt h1, Nat.div_eq_of_lt h2, Nat.zero_add] at e2
      rw [e1, ih hx.tail hy.tail (by simpa using hl) e2]

@[simp] theorem State.limbs_length (s : State) (r : Region) : (s.limbs r).length = r.len := by
  simp [State.limbs]

theorem State.limbs_fit (s : State) (r : Region) : LimbsFit s.cfg.W (s.limbs r) := by
  intro x hx
  simp only [State.limbs, List.mem_map] at hx
  obtain ⟨k, _, rfl⟩ := hx
  exact s.limb_lt _

/-- A region's value is its limbs' value (00_scope.md R9). -/
theorem State.regionVal_eq_limbsVal (s : State) (r : Region) : s.regionVal r = limbsVal s.cfg.W (s.limbs r) := by
  obtain ⟨a, n⟩ := r
  simp only [State.regionVal, State.limbs]
  induction n generalizing a with
  | zero => rfl
  | succ n ih =>
    rw [List.range_succ_eq_map, List.map_cons, List.map_map]
    simp only [State.memRead, limbsVal, Nat.add_zero]
    rw [ih (a + 1)]
    congr 4
    funext k
    simp only [Function.comp, Nat.succ_eq_add_one]
    congr 1
    omega

/-- Limb lists are equal when their values are, for two states of one build. -/
theorem State.limbs_eq_of_val {s t : State} {r : Region} {xs : List Nat} (hc : t.cfg = s.cfg) (hf : LimbsFit s.cfg.W xs)
    (hl : xs.length = r.len) (hv : t.regionVal r = limbsVal s.cfg.W xs) : t.limbs r = xs := by
  refine limbsVal_inj (w := s.cfg.W) (hc ▸ t.limbs_fit r) hf (by simp [hl]) ?_
  rw [← hv, State.regionVal_eq_limbsVal, hc]

end Sys2Proof.Machine
end

