-- ==== Sys2Proof/Laws/PerInstr.lean ====
section
/-! SUPPORT. Statements about every command as syntax, one lemma per constructor. -/

namespace Sys2Proof.Laws

/-- A command's encoding lies in its own row of the opcode table (30_encoding.md R103: mask and match). -/
def EncodingInRow.Statement (i : Instr) : Prop := encode i &&& i.rowMask = i.rowMatch

theorem EncodingInRow.nop : EncodingInRow.Statement .nop := by unfold EncodingInRow.Statement; decide
theorem EncodingInRow.kadd : EncodingInRow.Statement .kadd := by unfold EncodingInRow.Statement; decide
theorem EncodingInRow.ksub : EncodingInRow.Statement .ksub := by unfold EncodingInRow.Statement; decide
theorem EncodingInRow.kmul : EncodingInRow.Statement .kmul := by unfold EncodingInRow.Statement; decide

theorem EncodingInRow.kodd (off : Nat) : EncodingInRow.Statement (.kodd off) := by
  have key : ∀ k : Fin 64, BitVec.ofNat 64 (4 + 2 ^ 8 * k.1) &&& 0xFFFFFFFFFFFFC0FF = BitVec.ofNat 64 4 := by decide
  exact key ⟨off % 2 ^ 6, Nat.mod_lt _ (by decide)⟩

theorem EncodingInRow.addl : EncodingInRow.Statement .addl := by unfold EncodingInRow.Statement; decide
theorem EncodingInRow.subl : EncodingInRow.Statement .subl := by unfold EncodingInRow.Statement; decide
theorem EncodingInRow.sqr : EncodingInRow.Statement .sqr := by unfold EncodingInRow.Statement; decide
theorem EncodingInRow.red : EncodingInRow.Statement .red := by unfold EncodingInRow.Statement; decide
theorem EncodingInRow.rpass : EncodingInRow.Statement .rpass := by unfold EncodingInRow.Statement; decide
theorem EncodingInRow.mkmp : EncodingInRow.Statement .mkmp := by unfold EncodingInRow.Statement; decide
theorem EncodingInRow.clr : EncodingInRow.Statement .clr := by unfold EncodingInRow.Statement; decide

end Sys2Proof.Laws
end

