-- ==== Sys2Proof/Tests/Slice0.lean ====
section
/-! SUPPORT. The model's own tests. Expected results are those of spec/95_test_vectors.md (the vector's id is in the comment) or
of the rule named; a `witness_<Name>` shows a state that meets the hypotheses of Obligations.<Name>. -/

namespace Sys2Proof.Tests

open Sys2Proof.Machine

/-! ### Builders -/

/-- What a step's next state shows; `none` when it is no next state. -/
def after {α : Type} (a : Answer) (f : State → α) : Option α :=
  match a with
  | .next t => some (f t)
  | .fault _ => none
  | .refused _ => none

/-- A build with 64 limbs whose window starts at host address 0x1000. -/
def build (w : LimbWidth) : Config := { width := w, depth := 64, hostBase := 0x1000 }

/-- The listed limbs at limb `a`, nothing else. -/
def limbsAt (c : Config) (a : Nat) (l : List Nat) : Memory := Memory.writeLimbs [] c a l.length (limbsVal c.W l)

/-- A command in flight. -/
def job (c : Config) (d : DWord) (r : Regs) (m : Memory) : State :=
  { State.resetOf c with
    regs := r, mem := m, cmd := d.setWidth 16, pend := some { data := d, snap := r }
    status := { Status.reset with busy := true } }

/-- A kernel command in flight on the limbs `a` and `b`. -/
def kernelJob (w : LimbWidth) (d a b : DWord) : State := job (build w) d { Regs.reset with opa := a, opb := b } []

/-- ADDL or SUBL in flight on the listed limbs at limb 3. -/
def linearJob (w : LimbWidth) (d : DWord) (cap : Bool) (l : List Nat) (b : DWord) : State :=
  job (build w) d
    { Regs.reset with ctrl := { capchk := cap, ie := false }, abase := 3, alen := BitVec.ofNat 32 l.length, bval := b }
    (limbsAt (build w) 3 l)

/-- A command in flight from the listed limbs at limb 3 to `m` limbs at limb 20, exponent `p`. -/
def regionJob (w : LimbWidth) (d : DWord) (p : BitVec 32) (l : List Nat) (m : BitVec 32) : State :=
  job (build w) d
    { Regs.reset with p := p, abase := 3, alen := BitVec.ofNat 32 l.length, cbase := 20, clen := m }
    (limbsAt (build w) 3 l)

/-- The idle block with the listed events to come. -/
def idle (w : LimbWidth) (events : List Event) : State := { State.resetOf (build w) with inbox := events }

/-- The block with a NOP in flight and the listed events to come. -/
def busy (w : LimbWidth) (events : List Event) : State := { job (build w) 0 Regs.reset [] with inbox := events }

/-- RLO, RHI and STATUS. -/
def pair (t : State) : DWord × DWord × DWord := (t.rlo, t.rhi, t.current .status)

/-- `n` limbs from limb `a`, and STATUS. -/
def shows (a n : Nat) (t : State) : List Nat × DWord := (t.limbs { base := a, len := n }, t.current .status)

/-! ### WellFormed: the ill-formed is refused -/

theorem test_wellFormed_refuses_offset_64 : (Instr.kodd 64).wellFormed = false := by decide
theorem test_wellFormed_refuses_depth_0 : (Config.mk .w8 0 0).wellFormed = false := by decide
theorem test_wellFormed_refuses_depth_over : (Config.mk .w8 1966081 0).wellFormed = false := by decide

/-! ### Decode: words written from the table of 30_encoding.md R103 -/

theorem test_decode_nop : decode 0x0000 = .ok .nop := by decide
theorem test_decode_kadd : decode 0x0001 = .ok .kadd := by decide
theorem test_decode_ksub : decode 0x0002 = .ok .ksub := by decide
theorem test_decode_kmul : decode 0x0003 = .ok .kmul := by decide
theorem test_decode_kodd : decode 0b00_111111_00000100 = .ok (.kodd 63) := by decide
theorem test_decode_kodd_one_bit : decode 0b00_100000_00000100 = .ok (.kodd 32) := by decide
theorem test_decode_addl : decode 0x0010 = .ok .addl := by decide
theorem test_decode_subl : decode 0x0011 = .ok .subl := by decide
theorem test_decode_sqr : decode 0x0020 = .ok .sqr := by decide
theorem test_decode_red : decode 0x0030 = .ok .red := by decide
theorem test_decode_rpass : decode 0x0031 = .ok .rpass := by decide
theorem test_decode_mkmp : decode 0x0032 = .ok .mkmp := by decide
theorem test_decode_clr : decode 0x0040 = .ok .clr := by decide

-- V-ENC-1 to V-ENC-4, and RSV bit 15
theorem test_decode_refuses_opcode : decode 0x0005 = .error .reservedOpcode := by decide
theorem test_decode_refuses_immediate : decode 0x0101 = .error .strayImmediate := by decide
theorem test_decode_refuses_bit_14 : decode 0x4020 = .error .reservedBits := by decide
theorem test_decode_refuses_bit_15 : decode 0x8004 = .error .reservedBits := by decide
theorem test_decode_refuses_bit_32 : decode 0x0000000100000020 = .error .reservedBits := by decide

theorem test_decodeTableWord : decodeTableWord 16 0x0504 = some (.kodd 5) ∧ decodeTableWord 16 0x0005 = none := by decide

/-! ### One step of each command -/

-- V-CLR-2: the word placed after reset runs on the next step
theorem test_withFetchWord : after (step (State.reset.withFetchWord 16 0x0040)) (fun t => t.current .status) = some 0x0404 := by
  decide

-- V-NOP-1
theorem test_nop : after (step (job (build .w8) 0x0000 Regs.reset [])) (fun t => (t.current .status, t.current .cmd))
    = some (0x02, 0) := by decide
-- V-KADD-3, V-KADD-5
theorem test_kadd_max : after (step (kernelJob .w8 0x0001 0xFF 0xFF)) pair = some (0xFE, 0x01, 0x02) := by decide
theorem test_kadd_wide : after (step (kernelJob .w64 0x0001 0xFFFFFFFFFFFFFFFF 1)) pair = some (0, 1, 0x02) := by
  decide
-- V-KSUB-4, V-KSUB-6
theorem test_ksub_zero : after (step (kernelJob .w8 0x0002 0xFF 0x00)) pair = some (0xFF, 0, 0x02) := by decide
theorem test_ksub_wide : after (step (kernelJob .w64 0x0002 0 1)) pair = some (0xFFFFFFFFFFFFFFFF, 1, 0x02) := by
  decide
-- V-KMUL-2, V-KMUL-5
theorem test_kmul_max : after (step (kernelJob .w8 0x0003 0xFF 0xFF)) pair = some (0x01, 0xFE, 0x02) := by decide
theorem test_kmul_wide :
    after (step (kernelJob .w64 0x0003 0xFFFFFFFFFFFFFFFF 0xFFFFFFFFFFFFFFFF)) pair
      = some (1, 0xFFFFFFFFFFFFFFFE, 0x02) := by decide
-- V-KODD-2, V-KODD-8
theorem test_kodd_window : after (step (kernelJob .w8 0x0104 0x34 0x13)) pair = some (0x9A, 0, 0x02) := by decide
theorem test_kodd_badoff :
    after (step (kernelJob .w8 0x0804 0x34 0x12)) (fun t => (t.current .status, t.current .einfo))
      = some (0x0204, 0x0804) := by decide
-- V-ADDL-4, V-ADDL-6
theorem test_addl_chain : after (step (linearJob .w8 0x0010 true [0xFE, 0xFF, 0xFF, 0x7F] 5)) (shows 3 4)
    = some ([0x03, 0x00, 0x00, 0x80], 0x02) := by decide
theorem test_addl_capacity : after (step (linearJob .w8 0x0010 true [0xFF, 0xFF] 1)) (shows 3 2)
    = some ([0xFF, 0xFF], 0x0704) := by decide
-- V-SUBL-3, V-SUBL-6
theorem test_subl_chain : after (step (linearJob .w8 0x0011 true [0x00, 0x00, 0x01] 2)) (shows 3 3)
    = some ([0xFE, 0xFF, 0x00], 0x02) := by decide
theorem test_subl_wrap : after (step (linearJob .w8 0x0011 false [0x01, 0x00] 2)) (shows 3 2)
    = some ([0xFF, 0xFF], 0x12) := by decide
-- V-SQR-4, V-SQR-6
theorem test_sqr_chain : after (step (regionJob .w8 0x0020 0 [0xFF, 0xFF] 4)) (shows 20 4)
    = some ([0x01, 0x00, 0xFE, 0xFF], 0x02) := by decide
theorem test_sqr_extra : after (step (regionJob .w8 0x0020 0 [0x02] 4)) (shows 20 4)
    = some ([0x04, 0x00, 0x00, 0x00], 0x02) := by decide
-- V-RED-1, V-RED-17
theorem test_red_passes :
    after (step (regionJob .w8 0x0030 3 [0xFF, 0xFF] 2)) (fun t => (shows 20 2 t, t.passes))
      = some (([0x01, 0x00], 0x02), 6) := by decide
theorem test_red_modulus :
    after (step (regionJob .w64 0x0030 127 [0xFFFFFFFFFFFFFFFF, 0x7FFFFFFFFFFFFFFF, 0, 0] 4))
      (fun t => (shows 20 4 t, t.passes)) = some (([0, 0, 0, 0], 0x22), 1) := by decide
-- V-RPASS-1, V-RPASS-9
theorem test_rpass :
    after (step (regionJob .w8 0x0031 3 [0xFF, 0xFF] 2)) (fun t => (shows 20 2 t, t.passes))
      = some (([0x06, 0x20], 0x02), 1) := by decide
theorem test_rpass_length : after (step (regionJob .w8 0x0031 3 [0xFF, 0xFF] 1)) (fun t => t.current .status)
    = some 0x0404 := by decide
-- V-MKMP-4, V-MKMP-8
theorem test_mkmp : after (step (regionJob .w8 0x0032 13 [] 3)) (shows 20 3) = some ([0xFF, 0x1F, 0x00], 0x02) := by
  decide
theorem test_mkmp_full_limb :
    after (step (regionJob .w64 0x0032 64 [] 2)) (shows 20 2) = some ([0xFFFFFFFFFFFFFFFF, 0], 0x02) := by decide
-- V-CLR-1, V-CLR-2
theorem test_clr : after (step { regionJob .w8 0x0040 0 [] 2 with mem := limbsAt (build .w8) 20 [0x12, 0x34] }) (shows 20 2)
    = some ([0x00, 0x00], 0x22) := by decide
theorem test_clr_length :
    after (step (regionJob .w8 0x0040 0 [] 0)) (fun t => (t.current .status, t.current .einfo))
      = some (0x0404, 0x0040) := by decide
-- V-RED-21: BADP beats LENGTH; V-SQR-13: LENGTH beats OVERLAP
theorem test_badp_beats_length : after (step (regionJob .w8 0x0030 0 [] 1)) (fun t => t.current .status) = some 0x0304 := by
  decide
theorem test_illegal_word : -- V-ENC-4
    after (step (job (build .w8) 0x0000000100000020 Regs.reset [])) (fun t => (t.current .status, t.current .einfo))
      = some (0x0104, 0x0020) := by decide

/-! ### The bus -/

-- V-PROT-1, V-PROT-2
theorem test_command_dropped_in_error :
    after (step { idle .w8 [wr (build .w8) .cmd 0] with status := { Status.reset with err := true, ecode := 1 } })
      (fun t => (t.current .status, t.pend)) = some (0x010C, none) := by decide
theorem test_status_clears :
    after (step { idle .w8 [wr (build .w8) .status 0x000C] with
        status := { Status.reset with err := true, ovr := true, ecode := 1 }, einfo := 5 })
      (fun t => (t.current .status, t.current .einfo)) = some (0, 5) := by decide
-- V-PROT-3
theorem test_busy_write_dropped : after (step (busy .w8 [wr (build .w8) .abase 7])) (fun t => (t.current .abase, t.status.ovr))
    = some (0, true) := by decide
-- 60_exceptions.md R263: a read-only register (ID) and a reserved offset (0x090)
theorem test_busy_write_sets_ovr : ∀ x ∈ [0x1000, 0x1090],
    after (step (busy .w8 [.access (.write x 8 1)])) (fun t => t.current .status) = some 0x09 := by decide
-- V-PROT-5, V-PROT-6
theorem test_slot_offset :
    after (step (idle .w8 [.access (.write (0x1000 + 0x100018) 8 0x1234)])) (fun t => (t.limb 3, t.mem.length))
      = some (0x34, 1) := by decide
theorem test_id : after (step (idle .w8 [.access (.read 0x1000 8)])) State.response = some (.data 0x000000404D500108) := by
  decide
-- V-PROT-8
theorem test_narrow_read_refused :
    after (step (idle .w8 [.access (.read 0x1004 4)])) (fun t => (t.hostFault, t.status, t.regs, t.mem))
      = some (true, Status.reset, Regs.reset, []) := by decide
-- V-PROT-10
theorem test_irq :
    after (step (job (build .w8) 0 { Regs.reset with ctrl := { capchk := true, ie := true } } [])) State.irq = some true := by
  decide

/-! ### Witnesses: states that meet the hypotheses of the statements -/

theorem witness_DecodeEncodeRoundTrip : (Instr.kodd 63).wellFormed = true := by decide

theorem witness_LegalWordIsItsEncoding : decode 0x3F04 = .ok (.kodd 63) := by decide

/-- One word for each of R104's cases (a) to (d), in flight with an empty inbox and with a turn that heads a longer one, and one
legal word. -/
theorem witness_IllegalWordsComplete :
    (0x41 % 2 ^ 8 ∉ [0x00, 0x01, 0x02, 0x03, 0x04, 0x10, 0x11, 0x20, 0x30, 0x31, 0x32, 0x40])
      ∧ 0x4000 / 2 ^ 14 % 2 ^ 2 ≠ 0 ∧ 0x10000 / 2 ^ 16 ≠ 0 ∧ (0x0100 / 2 ^ 8 % 2 ^ 6 ≠ 0 ∧ 0x0100 % 2 ^ 8 ≠ 0x04)
      ∧ (∀ d ∈ [0x41, 0x4000, 0x10000, 0x0100],
          let s := job (build .w8) d Regs.reset []
          let s' : State := { s with inbox := [.blockTurn, .reset] }
          s.inbox = [] ∧ s.pend = some { data := d, snap := Regs.reset }
            ∧ s'.inbox = Event.blockTurn :: [.reset] ∧ s'.pend = some { data := d, snap := Regs.reset })
      ∧ (0x3F04 % 2 ^ 8 ∈ [0x00, 0x01, 0x02, 0x03, 0x04, 0x10, 0x11, 0x20, 0x30, 0x31, 0x32, 0x40]
          ∧ 0x3F04 / 2 ^ 14 = 0) := by
  refine ⟨by decide, by decide, by decide, by decide, ?_, by decide⟩
  intro d _
  exact ⟨rfl, rfl, rfl, rfl⟩

theorem witness_StepRunsDecodedCommand :
    (busy .w8 [.blockTurn]).pend = some { data := 0, snap := Regs.reset } ∧ decode 0 = .ok .nop
      ∧ (busy .w8 [.blockTurn]).inbox = Event.blockTurn :: [] ∧ (busy .w8 []).inbox = [] := by decide

theorem witness_FetchWordRunsItsCommand : (Instr.kodd 0).wellFormed = true ∧ Instr.clr.wellFormed = true := by decide

theorem witness_IdleHoldsState : (idle .w8 []).inbox = [] ∧ (idle .w8 []).pend = none := by decide

/-- Each error of a decoded command is reported somewhere, by a command in the latch, and none is too. -/
theorem witness_FirstErrorIsReported :
    reportedError (.kodd 8) (kernelJob .w8 0x0804 0 0) = some .badOff ∧ (kernelJob .w8 0x0804 0 0).pend.isSome = true
      ∧ reportedError .red (regionJob .w8 0x0030 1 [0] 1) = some .badP
      ∧ reportedError .sqr (regionJob .w8 0x0020 0 [1, 2] 3) = some .length
      ∧ reportedError .clr (regionJob .w8 0x0040 0 [] 45) = some .range
      ∧ reportedError .sqr { regionJob .w8 0x0020 0 [1] 2 with pend := some { data := 0x20, snap :=
          { Regs.reset with abase := 21, alen := 1, cbase := 20, clen := 2 } } } = some .overlap
      ∧ reportedError .addl (linearJob .w8 0x0010 true [0xFF] 1) = some .capacity
      ∧ reportedError .subl (linearJob .w8 0x0011 true [0] 1) = some .capacity
      ∧ reportedError .nop (busy .w8 []) = none := by decide

/-- A busy state with the invariant. -/
theorem busy_has_inv (events : List Event) : (busy .w8 events).Inv where
  build := (by decide : (build .w8).wellFormed = true)
  canonical := List.Pairwise.nil
  inLM := by intro c h; cases h
  widthRegs := (by decide : (0 : DWord).toNat < 2 ^ (build .w8).W ∧ (0 : DWord).toNat < 2 ^ (build .w8).W ∧ (0 : DWord).toNat < 2 ^ (build .w8).W)
  widthResults := (by decide : (0 : DWord).toNat < 2 ^ (build .w8).W ∧ (0 : DWord).toNat < 2 ^ (build .w8).W)
  busyLatch := rfl
  snapshot := by intro q h; cases h; exact ⟨rfl, rfl⟩
  busyAlone := fun _ => ⟨rfl, rfl⟩
  doneOrErr := by rintro ⟨h, _⟩; cases h
  errCode := (by decide : ((busy .w8 []).status.err = true ↔ (busy .w8 []).status.ecode ≠ 0) ∧ (busy .w8 []).status.ecode.toNat ≤ 7)

/-- A host that reads the first and the last byte of the window, one of them refused, while a command is in flight. -/
theorem witness_AcceptedCommandCompletes :
    (busy .w8 [.access (.read 0x1000 8), .access (.read 0x1000FFF 1), .blockTurn, .reset]).Inv
      ∧ ∀ e ∈ (busy .w8 [.access (.read 0x1000 8), .access (.read 0x1000FFF 1), .blockTurn, .reset]).inbox,
          e.reachesBlock (build .w8) = true := ⟨busy_has_inv _, by decide⟩

theorem witness_StepKeepsInvariant :
    (busy .w8 []).Inv ∧ after (step (busy .w8 [])) (fun t => t.status.done) = some true := ⟨busy_has_inv _, by decide⟩

theorem witness_ResetHasInvariant :
    (Config.mk .w8 1 0).wellFormed = true ∧ (Config.mk .w64 1966080 0).wellFormed = true := by decide

theorem witness_StepKeepsMemoryCanonical :
    (limbsAt (build .w16) 3 [1, 2]).wf
      ∧ after (step { idle .w16 [wr (build .w16) (.slot 2) 7] with mem := limbsAt (build .w16) 3 [1, 2] }) (fun t => t.mem.length)
          = some 6 := by decide

theorem witness_IdNeverChanges :
    (build .w64).wellFormed = true ∧ after (step (idle .w64 [.reset])) (fun t => t.epoch) = some 1 := by decide

theorem witness_HostFaultIsSticky :
    after (step { idle .w8 [.reset] with hostFault := true }) (fun t => t.epoch) = some 1 := by decide

theorem witness_KoddResult : 0 < (kernelJob .w8 0x0004 1 1).cfg.W ∧ 7 < (kernelJob .w8 0x0704 1 1).cfg.W
    ∧ (kernelJob .w8 0x0804 1 1).cfg.W ≤ 8 := by decide

theorem linear_ready (w : LimbWidth) (d : DWord) (cap : Bool) (b : DWord) : (linearJob w d cap [0xFF, 0xFF] b).inPlaceReady :=
  ⟨by show (2 : Nat) ≠ 0; decide, by show (3 + 2 : Nat) ≤ 64; decide⟩

/-- The greatest sum that fits with CAPCHK = 1, and one that does not with CAPCHK = 0. -/
theorem witness_AddlResult :
    (let s := linearJob .w8 0x0010 true [0xFF, 0xFF] 0
     s.inPlaceReady ∧ (s.regionVal s.regionA + s.bLimb < 2 ^ (s.regionA.len * s.cfg.W) ∨ s.src.ctrl.capchk = false))
      ∧ (let s := linearJob .w8 0x0010 false [0xFF, 0xFF] 1
         s.inPlaceReady ∧ (s.regionVal s.regionA + s.bLimb < 2 ^ (s.regionA.len * s.cfg.W) ∨ s.src.ctrl.capchk = false)) :=
  ⟨⟨linear_ready _ _ _ _, .inl (by decide)⟩, linear_ready _ _ _ _, .inr rfl⟩

theorem witness_SublResult :
    (let s := linearJob .w8 0x0011 true [0xFF, 0xFF] 0xFF
     s.inPlaceReady ∧ (s.bLimb ≤ s.regionVal s.regionA ∨ s.src.ctrl.capchk = false))
      ∧ (let s := linearJob .w8 0x0011 false [0xFF, 0xFF] 1
         s.inPlaceReady ∧ (s.bLimb ≤ s.regionVal s.regionA ∨ s.src.ctrl.capchk = false)) :=
  ⟨⟨linear_ready _ _ _ _, .inl (by decide)⟩, linear_ready _ _ _ _, .inr rfl⟩

/-- The least sum that does not fit, and a borrow of one. -/
theorem witness_CapacityIsRaised :
    (let s := linearJob .w8 0x0010 true [0xFF, 0xFF] 1
     s.inPlaceReady ∧ s.src.ctrl.capchk = true ∧ 2 ^ (s.regionA.len * s.cfg.W) ≤ s.regionVal s.regionA + s.bLimb)
      ∧ (let s := linearJob .w8 0x0011 true [0] 1
         s.inPlaceReady ∧ s.src.ctrl.capchk = true ∧ s.regionVal s.regionA < s.bLimb) :=
  ⟨⟨linear_ready _ _ _ _, rfl, by decide⟩, ⟨by decide, by decide⟩, rfl, by decide⟩

/-- Two states that differ in the limb above region A. -/
theorem witness_LinearTouchesRegionAOnly :
    let s := linearJob .w8 0x0010 true [0xFF, 0x00] 1
    let s' : State := { s with mem := limbsAt (build .w8) 3 [0xFF, 0x00, 0x55] }
    s' = { s with mem := s'.mem } ∧ s'.limbs s.regionA = s.limbs s.regionA ∧ s'.mem ≠ s.mem :=
  ⟨rfl, by decide, by decide⟩

theorem witness_SerialAddYieldsAddl :
    let s := linearJob .w8 0x0010 false [0xFF, 0xFF] 1
    s.inPlaceReady ∧ (s.regionVal s.regionA + s.bLimb < 2 ^ (s.regionA.len * s.cfg.W) ∨ s.src.ctrl.capchk = false) :=
  ⟨linear_ready _ _ _ _, .inr rfl⟩

theorem witness_SerialSubYieldsSubl :
    let s := linearJob .w8 0x0011 true [0xFF, 0xFF] 0xFF
    s.inPlaceReady ∧ (s.bLimb ≤ s.regionVal s.regionA ∨ s.src.ctrl.capchk = false) :=
  ⟨linear_ready _ _ _ _, .inl (by decide)⟩

theorem witness_SqrResult :
    let s := regionJob .w8 0x0020 0 [0xFF, 0xFF] 4
    s.sourceDestinationReady (2 * s.regionA.len) :=
  ⟨⟨by decide, by decide⟩, ⟨by decide, by decide, by decide⟩, by decide⟩

theorem witness_SchoolbookYieldsSqr :
    let s := regionJob .w8 0x0020 0 [0xFF, 0xFF] 4
    s.sourceDestinationReady (2 * s.regionA.len) := witness_SqrResult

/-- Two states that differ in what region C held, for a command that reads region A and for one that does not. -/
theorem witness_StaleDestinationNeverLeaks :
    (let s := regionJob .w8 0x0020 0 [0xFF] 2
     let s' : State := { s with mem := s.mem.writeLimbs (build .w8) 20 2 0xAAAA }
     usesC .sqr = true ∧ reportedError .sqr s = none ∧ s' = { s with mem := s'.mem } ∧ s'.limbs s.regionA = s.limbs s.regionA)
      ∧ usesC .clr = true ∧ usesA .clr = false ∧ reportedError .clr (regionJob .w8 0x0040 0 [] 2) = none :=
  ⟨⟨rfl, by decide, rfl, by decide⟩, rfl, rfl, by decide⟩

theorem witness_FoldPassProperties : 2 ≤ 2 ∧ 2 ^ 2 - 1 ≤ 3 ∧ 2 < 2 ^ 2 - 1 := by decide

/-- Both branches of the bound, at their boundary. -/
theorem witness_FoldCountBound : 2 ≤ 2 ∧ 1 ≤ 1 ∧ 1 < 2 ^ 1 ∧ 2 * 2 ≤ 4 ∧ 15 < 2 ^ 4 ∧ 15 < 2 ^ (2 * 2) := by decide

theorem witness_LimbPassIsFoldPass : 2 ≤ 3 ∧ ∀ x ∈ [0xFF, 0xFF], x < 2 ^ (build .w8).W := by decide

theorem witness_RedResult :
    let s := regionJob .w8 0x0030 2 [0xFF, 0xFF] 1
    2 ≤ s.exponent ∧ s.sourceDestinationReady (mpn s.cfg s.exponent) :=
  ⟨by decide, ⟨by decide, by decide⟩, ⟨by decide, by decide, by decide⟩, by decide⟩

/-- A value below the modulus, and the greatest one below 2^(2p). -/
theorem witness_RedPasses :
    (let s := regionJob .w8 0x0030 5 [0x1E] 1
     s.cfg.wellFormed = true ∧ 2 ≤ s.exponent ∧ s.sourceDestinationReady (mpn s.cfg s.exponent)
       ∧ s.regionVal s.regionA < 2 ^ s.exponent - 1)
      ∧ (let s := regionJob .w8 0x0030 5 [0xFF, 0x03] 1
         s.cfg.wellFormed = true ∧ 2 ≤ s.exponent ∧ s.sourceDestinationReady (mpn s.cfg s.exponent)
           ∧ s.regionVal s.regionA < 2 ^ (2 * s.exponent)) :=
  ⟨⟨by decide, by decide, ⟨⟨by decide, by decide⟩, ⟨by decide, by decide, by decide⟩, by decide⟩, by decide⟩,
    by decide, by decide, ⟨⟨by decide, by decide⟩, ⟨by decide, by decide, by decide⟩, by decide⟩, by decide⟩

theorem witness_RpassResult :
    let s := regionJob .w8 0x0031 2 [0xFF, 0xFF] 2
    2 ≤ s.exponent ∧ s.sourceDestinationReady s.regionA.len :=
  ⟨by decide, ⟨by decide, by decide⟩, ⟨by decide, by decide, by decide⟩, by decide⟩

theorem witness_MkmpResult :
    let s := regionJob .w8 0x0032 8 [] 1
    2 ≤ s.exponent ∧ s.destinationReady (mpn s.cfg s.exponent) :=
  ⟨by decide, by decide, by decide, by decide⟩

/-- The least exponent, and a write of P to the idle block; then MPN is 2 and LMASK is 0x1F (V-MKMP-4's modulus). -/
theorem witness_MpnAndLmaskDescribeModulus :
    1 ≤ 1 ∧ (let s := idle .w8 [wr (build .w8) .p 13]
             s.status.busy = false ∧ s.inbox = wr s.cfg .p 13 :: []
               ∧ after (step s) (fun t => (t.current .mpn, t.current .lmask)) = some (2, 0x1F)) := by decide

/-- CLR of a region that ends at the last limb. -/
theorem witness_ClrResult : (regionJob .w8 0x0040 0 [] 44).destinationReady 0 := ⟨by decide, by decide, by decide⟩

theorem witness_SlotByteLanes : 63 < (idle .w16 []).cfg.depth ∧ 1 < (idle .w16 []).cfg.bytes ∧ ¬ 2 < (idle .w16 []).cfg.bytes
    ∧ 7 < 8 := by decide

/-- The last register, the first and the last slot, and the reserved offsets beside them. -/
theorem witness_RegisterMapIsExact :
    Target.einfo ≠ .reserved ∧ (∀ i, Target.einfo ≠ .slot i)
      ∧ (∀ i, Target.slot 63 = .slot i → i < (build .w8).depth) ∧ Target.slot 63 ≠ .reserved
      ∧ [0x088, 0x090, 0x0FFFF8, 0x100000, 0x1001F8, 0x100200].map (target (build .w8))
          = [.einfo, .reserved, .reserved, .slot 0, .slot 63, .reserved] :=
  ⟨by decide, (by intro i h; cases h), by rintro i ⟨⟩; decide, by decide, by decide⟩

/-- A read of the last offset of the window. -/
theorem witness_ReadsHaveNoSideEffects :
    let s := idle .w8 [.access (.read 0x1000FF8 8)]
    inWindow s.cfg 0x1000FF8 = true ∧ (0x1000FF8 - s.cfg.hostBase) % 8 = 0
      ∧ s.inbox = Event.access (.read 0x1000FF8 8) :: [] ∧ s.status.busy = false := by decide

/-- Each kind of target, read while a NOP is in flight. -/
theorem witness_ReadWhileBusy :
    ∀ t ∈ [Target.id, .status, .rlo, .rhi, .passes, .reserved, .slot 63],
      let s := busy .w8 [rd (build .w8) t]
      s.cfg.wellFormed = true ∧ s.status.busy = true ∧ (∀ i, t = .slot i → i < s.cfg.depth) ∧ s.inbox = rd s.cfg t :: [] := by
  intro t ht
  refine ⟨(by decide : (build .w8).wellFormed = true), rfl, ?_, rfl⟩
  rintro i rfl
  simp at ht
  subst ht
  decide

/-- A narrow read and an unaligned write. -/
theorem witness_RefusedAccessChangesNothing :
    ∀ a ∈ [Access.read 0x1000 4, Access.write 0x1001 8 0],
      let s := idle .w8 [.access a]
      inWindow s.cfg a.addr = true ∧ (a.bytes ≠ 8 ∨ (a.addr - s.cfg.hostBase) % 8 ≠ 0) ∧ s.inbox = Event.access a :: [] := by
  decide

/-- The addresses just below and just above the window. -/
theorem witness_OutsideWindowFaults :
    ∀ a ∈ [Access.read 0xFFF 8, Access.write 0x1001000 8 0],
      let s := idle .w8 [.access a]
      (a.addr < s.cfg.hostBase ∨ s.cfg.hostBase + 2 ^ 24 ≤ a.addr) ∧ s.inbox = Event.access a :: [] := by decide

/-- A command written while BUSY, while ERR, and while neither. -/
theorem witness_CommandWrite :
    (let s := busy .w8 [wr (build .w8) .cmd 5]
     s.inbox = wr s.cfg .cmd 5 :: [] ∧ s.status.busy = true)
      ∧ (let s : State := { idle .w8 [wr (build .w8) .cmd 5] with status := { Status.reset with err := true } }
         s.inbox = wr s.cfg .cmd 5 :: [] ∧ s.status.err = true)
      ∧ (let s := idle .w8 [wr (build .w8) .cmd 5]
         s.inbox = wr s.cfg .cmd 5 :: [] ∧ s.status.busy = false ∧ s.status.err = false) := by decide

theorem witness_StatusWrite : (busy .w8 [wr (build .w8) .status 0xE]).inbox = wr (busy .w8 []).cfg .status 0xE :: [] := rfl

/-- A read-only register, CMD, both reserved ranges and the last slot, written while a NOP is in flight. -/
theorem witness_BusyWriteIsDropped :
    ∀ x ∈ [0x1000, 0x1018, 0x1090, 0x1011F8, 0x101200],
      let s := busy .w8 [.access (.write x 8 1)]
      inWindow s.cfg x = true ∧ (x - s.cfg.hostBase) % 8 = 0 ∧ target s.cfg (x - s.cfg.hostBase) ≠ .status
        ∧ s.status.busy = true ∧ s.inbox = Event.access (.write x 8 1) :: [] := by decide

/-- ID, and the reserved offset above the last slot, written while idle and while busy. -/
theorem witness_IgnoredWriteChangesNothing :
    ∀ x ∈ [0x1000, 0x101200], ∀ s ∈ [idle .w8 [.access (.write x 8 1)], busy .w8 [.access (.write x 8 1)]],
      inWindow s.cfg x = true ∧ (x - s.cfg.hostBase) % 8 = 0 ∧ (target s.cfg (x - s.cfg.hostBase)).ignoresWrites = true
        ∧ s.inbox = Event.access (.write x 8 1) :: [] := by decide

/-- The first and the last aligned offset of each reserved range. -/
theorem witness_ReservedOffsetsReadZero :
    ∀ off ∈ [0x090, 0x0FFFF8, 0x100200, 0xFFFFF8],
      let s := busy .w8 [.access (.read (0x1000 + off) 8)]
      off % 8 = 0 ∧ ((0x090 ≤ off ∧ off ≤ 0x0FFFFF) ∨ (0x100000 + 8 * s.cfg.depth ≤ off ∧ off ≤ 0xFFFFFF))
        ∧ s.inbox = Event.access (.read (s.cfg.hostBase + off) 8) :: [] := by decide

theorem witness_RegisterWriteReadsBack :
    ∀ t ∈ [Target.ctrl, .p, .bval],
      let s := idle .w8 [wr (build .w8) t 0x1FF]
      s.status.busy = false ∧ t ∈ [Target.ctrl, .p, .abase, .alen, .cbase, .clen, .bval, .opa, .opb]
        ∧ s.inbox = wr s.cfg t 0x1FF :: [] := by decide

/-- The last slot; the byte above its one byte is outside the limb. -/
theorem witness_SlotWriteReadsBack :
    let s := idle .w8 [wr (build .w8) (.slot 63) 0x1FF]
    s.cfg.wellFormed = true ∧ s.status.busy = false ∧ 63 < s.cfg.depth ∧ s.inbox = wr s.cfg (.slot 63) 0x1FF :: []
      ∧ (Region.mk 63 1).hasByte s.cfg 0x1001F9 = false := by decide

/-- A dutiful read, write, turn and reset while busy, a dutiful command while idle; a command while busy is none. -/
theorem witness_DutifulHostIsNeverDropped :
    (∀ e ∈ [rd (build .w8) .status, wr (build .w8) .status 2, .blockTurn, .reset],
        (busy .w8 [e]).inbox = e :: [] ∧ (busy .w8 [e]).dutiful e = true)
      ∧ (idle .w8 []).dutiful (wr (build .w8) .cmd 0) = true ∧ (busy .w8 []).dutiful (wr (build .w8) .cmd 0) = false := by
  decide

theorem witness_WriteIssueWaitRead :
    let s := idle .w8 [wr (build .w8) (.slot 0) 5, issueEvent (build .w8) .nop, .blockTurn, rd (build .w8) (.slot 63)]
    s.cfg.wellFormed = true ∧ s.status.busy = false ∧ s.status.err = false ∧ Instr.nop.wellFormed = true ∧ 0 < s.cfg.depth
      ∧ 63 < s.cfg.depth ∧ s.inbox = [wr s.cfg (.slot 0) 5, issueEvent s.cfg .nop, .blockTurn, rd s.cfg (.slot 63)] := by
  decide

theorem witness_CompletionRaisesIrq : after (exec .nop (busy .w8 [])) State.irq = some false := by decide

theorem witness_ResetInputResets : (busy .w8 [.reset]).inbox = Event.reset :: [] := rfl

theorem witness_ResetLeavesMemoryUnspecified : (busy .w8 [.reset, .blockTurn]).inbox = Event.reset :: [.blockTurn] := rfl

end Sys2Proof.Tests
end

section
/-! The limb memory read as a number (00_scope.md R9, R10). -/

namespace Sys2Proof.Machine

/-- The closed form of `MemRead`: limb `a + k` has the weight `2 ^ (k * W)` (00_scope.md R9). -/
theorem State.memRead_eq_sum (s : State) (a n : Nat) :
    s.memRead a n = ∑ k ∈ Finset.range n, s.limb (a + k) * 2 ^ (k * s.cfg.W) := by
  induction n generalizing a with
  | zero => rfl
  | succ n ih =>
    have shift (k : Nat) : 2 ^ s.cfg.W * (s.limb (a + 1 + k) * 2 ^ (k * s.cfg.W))
        = s.limb (a + (k + 1)) * 2 ^ ((k + 1) * s.cfg.W) := by
      rw [Nat.add_right_comm a 1 k, Nat.add_assoc a k 1, Nat.succ_mul, pow_add]
      ring
    calc s.memRead a (n + 1)
        = s.limb a + 2 ^ s.cfg.W * ∑ k ∈ Finset.range n, s.limb (a + 1 + k) * 2 ^ (k * s.cfg.W) := by
          rw [State.memRead, ih]
      _ = s.limb a + ∑ k ∈ Finset.range n, s.limb (a + (k + 1)) * 2 ^ ((k + 1) * s.cfg.W) := by
          simp only [Finset.mul_sum, shift]
      _ = ∑ k ∈ Finset.range (n + 1), s.limb (a + k) * 2 ^ (k * s.cfg.W) := by
          rw [Finset.sum_range_succ', Nat.zero_mul, pow_zero, mul_one, Nat.add_zero, Nat.add_comm]

/-- Settles O40, by the closed form of `State.memRead` (induction on the limb count). -/
theorem memReadIsLimbSum : Obligations.MemReadIsLimbSum := State.memRead_eq_sum

end Sys2Proof.Machine
end

section
/-! The invariant of the machine, kept by every step: one lemma per state operation, then one per kind of event. -/

namespace Sys2Proof.Machine

/-! ### Facts the invariant's cases need -/

/-- ECODE of a command error is one of 1 to 7 (60_exceptions.md R252). -/
theorem ErrCode.code_range (e : ErrCode) : e.code ≠ 0 ∧ e.code.toNat ≤ 7 := by
  cases e <;> decide

/-- A register of width W holds W bits after any write (10_state.md R37). -/
theorem limbReg_lt (c : Config) (v : Nat) : (limbReg c v).toNat < 2 ^ c.W := by
  rw [limbReg_toNat]
  exact Nat.mod_lt _ (Nat.two_pow_pos _)

/-- The bytes of a region in range are bytes of LM (20_memory.md R72, R78). -/
theorem Region.hasByte_of_inRange {r : Region} {c : Config} {x : Nat} (hr : r.inRange c) (hx : r.hasByte c x = true) :
    (Region.mk 0 c.depth).hasByte c x = true := by
  have hr : r.base + r.len ≤ c.depth := hr
  rw [Region.hasByte_iff] at *
  dsimp only
  omega

/-! ### The invariant after each operation -/

section
variable {s : State}

/-- With BUSY = 0 no command is in flight. -/
theorem State.Inv.pend_eq_none (h : s.Inv) (hb : s.status.busy = false) : s.pend = none :=
  Option.not_isSome_iff_eq_none.1 (by simp [← h.busyLatch, hb])

/-- The fields the invariant does not speak of are free. -/
theorem State.Inv.untracked (h : s.Inv) (passes : BitVec 32) (einfo : BitVec 16) (epoch draws : Nat) (inbox : List Event)
    (response : Response) (hostFault : Bool) :
    State.Inv { s with
      passes := passes, einfo := einfo, epoch := epoch, draws := draws, inbox := inbox, response := response
      hostFault := hostFault } :=
  { h with }

theorem State.Inv.setPair (h : s.Inv) (lo hi : Nat) : (s.setPair lo hi).Inv :=
  { h with widthResults := ⟨limbReg_lt _ _, limbReg_lt _ _⟩ }

/-- Writing a region in range keeps the invariant: the memory stays canonical and inside LM. -/
theorem State.Inv.memWrite (h : s.Inv) {a n : Nat} (hr : (Region.mk a n).inRange s.cfg) (v : Nat) :
    (s.memWrite a n v).Inv :=
  { h with
    canonical := Memory.writeLimbs_wf h.canonical _ _ _ _
    inLM := fun cell hc => (Memory.mem_writeLimbs hc).elim (Region.hasByte_of_inRange hr) (h.inLM cell) }

theorem State.Inv.setLimb (h : s.Inv) {i : Nat} (hi : i < s.cfg.depth) (v : Nat) : (s.setLimb i v).Inv :=
  h.memWrite (a := i) (n := 1) hi v

theorem State.Inv.flags (h : s.Inv) (c z : Bool) : (s.flags c z).Inv :=
  { h with }

theorem State.Inv.setOvr (h : s.Inv) : s.setOvr.Inv :=
  { h with }

/-- Completion of a command in flight: ERR was 0, so DONE alone is set. -/
theorem State.Inv.finish (h : s.Inv) (hb : s.status.busy = true) : s.finish.Inv :=
  { h with
    busyLatch := rfl
    snapshot := by simp
    busyAlone := by simp
    doneOrErr := by simp [h.busyAlone hb] }

/-- An error of a command in flight: DONE was 0, so ERR alone is set, with an ECODE of R252. -/
theorem State.Inv.raise (h : s.Inv) (hb : s.status.busy = true) (e : ErrCode) : (s.raise e).Inv :=
  { h with
    busyLatch := rfl
    snapshot := by simp
    busyAlone := by simp
    doneOrErr := by simp [h.busyAlone hb]
    errCode := by simpa using e.code_range }

/-- Acceptance happens with ERR = 0 and clears DONE (20_memory.md R82). -/
theorem State.Inv.accept (h : s.Inv) (he : s.status.err = false) (d : DWord) : (s.accept d).Inv :=
  { h with
    busyLatch := rfl
    snapshot := by rintro q ⟨rfl⟩; exact ⟨rfl, rfl⟩
    busyAlone := fun _ => ⟨rfl, he⟩
    doneOrErr := by simp }

/-- ECODE is cleared together with ERR (10_state.md R25). -/
theorem State.Inv.clearErr (h : s.Inv) : s.clearErr.Inv :=
  { h with
    busyAlone := fun hb => ⟨(h.busyAlone hb).1, rfl⟩
    doneOrErr := by simp
    errCode := by simp }

/-- DONE may be cleared at any time, and OVR is free. -/
theorem State.Inv.maskDone (h : s.Inv) (keep ovr : Bool) :
    State.Inv { s with status := { s.status with done := s.status.done && keep, ovr := ovr } } :=
  { h with
    busyAlone := fun hb => by simp [h.busyAlone hb]
    doneOrErr := fun ⟨hd, he⟩ => h.doneOrErr ⟨(Bool.and_eq_true_iff.1 hd).1, he⟩ }

theorem State.Inv.writeStatus (h : s.Inv) (d : DWord) : (s.writeStatus d).Inv := by
  unfold State.writeStatus
  split
  · exact h.clearErr.maskDone ..
  · exact h.maskDone ..

/-- A register write while BUSY = 0: with the latch empty no snapshot can differ from the live registers. -/
theorem State.Inv.withRegs (h : s.Inv) (hb : s.status.busy = false) {r : Regs}
    (hw : r.bval.toNat < 2 ^ s.cfg.W ∧ r.opa.toNat < 2 ^ s.cfg.W ∧ r.opb.toNat < 2 ^ s.cfg.W) :
    State.Inv { s with regs := r } :=
  { h with
    widthRegs := hw
    snapshot := by simp [h.pend_eq_none hb] }

/-- A write that is not dropped: a register keeps its width, an existing limb is in LM. -/
theorem State.Inv.writeTarget (h : s.Inv) (hb : s.status.busy = false) {t : Target}
    (ht : ∀ i, t = .slot i → i < s.cfg.depth) (d : DWord) : (s.writeTarget t d).Inv := by
  obtain ⟨hbval, hopa, hopb⟩ := h.widthRegs
  cases t with
  | ctrl | p | abase | alen | cbase | clen => exact h.withRegs hb h.widthRegs
  | bval => exact h.withRegs hb ⟨limbReg_lt _ _, hopa, hopb⟩
  | opa => exact h.withRegs hb ⟨hbval, limbReg_lt _ _, hopb⟩
  | opb => exact h.withRegs hb ⟨hbval, hopa, limbReg_lt _ _⟩
  | slot i => exact h.setLimb (ht i rfl) _
  | id | status | cmd | mpn | lmask | rlo | rhi | passes | einfo | reserved => exact h

theorem State.Inv.hostWrite (h : s.Inv) {t : Target} (ht : ∀ i, t = .slot i → i < s.cfg.depth) (d : DWord) :
    (s.hostWrite t d).Inv := by
  rcases s.hostWrite_cases t d with ⟨_, e⟩ | ⟨_, _, e⟩ | ⟨_, hb, e⟩ | ⟨_, _, hb, e⟩ <;> rw [e]
  · exact h.writeStatus d
  · exact h.setOvr
  · unfold State.issue
    split
    · exact h.setOvr
    · next hbe => exact h.accept (by simpa [hb] using hbe) d
  · exact h.writeTarget hb ht d

theorem State.Inv.hostRead (h : s.Inv) (t : Target) : (s.hostRead t).Inv := by
  unfold State.hostRead
  split <;> exact h.untracked ..

theorem State.Inv.refuseAccess (h : s.Inv) (a : Access) : (s.refuseAccess a).Inv := by
  cases a <;> exact h.untracked ..

theorem State.Inv.resetInput (h : s.Inv) : s.resetInput.Inv where
  build := h.build
  canonical := List.Pairwise.nil
  inLM := by intro cell hc; cases hc
  widthRegs := ⟨Nat.two_pow_pos _, Nat.two_pow_pos _, Nat.two_pow_pos _⟩
  widthResults := ⟨Nat.two_pow_pos _, Nat.two_pow_pos _⟩
  busyLatch := rfl
  snapshot := by intro q hq; cases hq
  busyAlone := by intro hb; cases hb
  doneOrErr := by rintro ⟨hd, _⟩; cases hd
  errCode := by simp [State.resetInput, State.resetOf, Status.reset]

/-! ### The invariant after each kind of event -/

/-- A command in flight keeps the invariant: each end that `exec_cases` lists does. -/
theorem State.Inv.exec {t : State} (h : s.Inv) (hb : s.status.busy = true) {i : Instr} (ht : exec i s = .next t) :
    t.Inv := by
  rcases exec_cases i s with ⟨e, h1⟩ | h1 | ⟨lo, hi, h1⟩ | ⟨hC, ⟨v, h1⟩ | ⟨k, v, h1⟩⟩ | ⟨hA, r, o, h1⟩ <;>
    rw [h1] at ht <;> cases ht
  · exact h.raise hb e
  · exact h.finish hb
  · exact (h.setPair lo hi).finish hb
  · exact ((h.memWrite hC v).flags _ _).finish hb
  · have hk : (s.setPasses k).Inv := h.untracked ..
    exact ((hk.memWrite hC v).flags _ _).finish hb
  · exact ((h.memWrite hA r).flags _ _).finish hb

theorem State.Inv.blockTurn {t : State} (h : s.Inv) (ht : s.blockTurn = .next t) : t.Inv := by
  rcases s.blockTurn_cases with ⟨_, e⟩ | ⟨q, hq, hturn⟩
  · rw [e] at ht
    cases ht
    exact h
  · have hb : s.status.busy = true := by rw [h.busyLatch, hq]; rfl
    rcases hturn with ⟨_, _, e⟩ | ⟨i, _, e⟩ <;> rw [e] at ht
    · cases ht
      exact h.raise hb _
    · exact h.exec hb ht

theorem State.Inv.access {t : State} (h : s.Inv) {a : Access} (ht : s.access a = .next t) : t.Inv := by
  rcases s.access_cases a with ⟨_, e⟩ | ⟨_, _, e⟩ | ⟨_, _, ⟨_, _, _, e⟩ | ⟨_, _, d, _, e⟩⟩ <;> rw [e] at ht <;> cases ht
  · exact h.refuseAccess a
  · exact h.hostRead _
  · exact (h.hostWrite (fun _ => target_slot_lt) d).untracked ..

theorem State.Inv.handle {t : State} (h : s.Inv) {e : Event} (ht : s.handle e = .next t) : t.Inv := by
  cases e with
  | access a => exact h.access ht
  | blockTurn => exact h.blockTurn ht
  | reset => cases ht; exact h.resetInput

end

/-- Settles O11: the event taken off the inbox is no part of the invariant, and every kind of event keeps it. -/
theorem stepKeepsInvariant : Obligations.StepKeepsInvariant := by
  intro s t h ht
  rcases step_cases s with ⟨_, e⟩ | ⟨ev, rest, _, e⟩ <;> rw [e] at ht
  · exact h.blockTurn ht
  · have moved : State.Inv { s with inbox := rest } := h.untracked ..
    exact moved.handle ht

end Sys2Proof.Machine
end

section
/-! The register map (10_state.md R22, 20_memory.md R72, R74): what stands at which window offset. -/

namespace Sys2Proof.Machine

/-- The map gives each offset one register. -/
theorem regMap_lookup_eq_some_iff {off : Nat} {t : Target} : regMap.lookup off = some t ↔ (off, t) ∈ regMap := by
  have unique : ∀ e ∈ regMap, regMap.lookup e.1 = some e.2 := by decide
  constructor
  · intro h
    obtain ⟨l1, l2, hl, _⟩ := List.lookup_eq_some_iff.1 h
    simp [hl]
  · exact unique (off, t)

/-- A register: neither a limb's slot nor a reserved offset. -/
def Target.IsRegister (t : Target) : Prop := t ≠ .reserved ∧ ∀ i, t ≠ .slot i

/-- The map lists each register at its offset. -/
theorem Target.IsRegister.mem_regMap {t : Target} (h : t.IsRegister) : (t.offset, t) ∈ regMap := by
  cases t with
  | slot i => exact absurd rfl (h.2 i)
  | reserved => exact absurd rfl h.1
  | _ => decide

/-- The map lists registers alone, at aligned offsets below 0x090. -/
theorem regMap_entry {off : Nat} {t : Target} (h : (off, t) ∈ regMap) : t.IsRegister ∧ off < 0x090 ∧ off % 8 = 0 := by
  have offsets : ∀ e ∈ regMap, e.1 < 0x090 ∧ e.1 % 8 = 0 := by decide
  refine ⟨⟨?_, fun i => ?_⟩, offsets _ h⟩ <;> rintro rfl <;> simp [regMap] at h

/-- Every aligned offset below 0x090 is a register's. -/
theorem exists_mem_regMap {off : Nat} (h8 : off % 8 = 0) (h : off < 0x090) : ∃ t, (off, t) ∈ regMap := by
  have listed : ∀ k < 18, (regMap.lookup (8 * k)).isSome = true := by decide
  obtain ⟨t, ht⟩ := Option.isSome_iff_exists.1 (listed (off / 8) (by omega))
  rw [Nat.mul_div_cancel' (Nat.dvd_of_mod_eq_zero h8)] at ht
  exact ⟨t, regMap_lookup_eq_some_iff.1 ht⟩

/-- An offset of the map leads to its register. -/
theorem target_of_mem_regMap {c : Config} {off : Nat} {t : Target} (h : (off, t) ∈ regMap) : target c off = t := by
  unfold target
  rw [regMap_lookup_eq_some_iff.2 h]

/-- A register is reached through the map alone. -/
theorem target_eq_register_iff {c : Config} {off : Nat} {t : Target} (ht : t.IsRegister) :
    target c off = t ↔ (off, t) ∈ regMap := by
  refine ⟨fun h => ?_, target_of_mem_regMap⟩
  unfold target at h
  split at h
  · next u hu => exact regMap_lookup_eq_some_iff.1 (h ▸ hu)
  · split at h
    · exact absurd h.symm (ht.2 _)
    · exact absurd h.symm ht.1

/-- An aligned offset below 0x090 leads to a register. -/
theorem target_below_isRegister {c : Config} {off : Nat} (h8 : off % 8 = 0) (h : off < 0x090) :
    (target c off).IsRegister := by
  obtain ⟨t, ht⟩ := exists_mem_regMap h8 h
  rw [target_of_mem_regMap ht]
  exact (regMap_entry ht).1

/-- An aligned offset is limb `i`'s slot exactly when the limb exists and the offset is `slotAddr i` (20_memory.md R72). -/
theorem target_eq_slot_iff {c : Config} {off i : Nat} (h8 : off % 8 = 0) :
    target c off = .slot i ↔ i < c.depth ∧ off = slotAddr i := by
  by_cases h : off < 0x090
  · have hr := (target_below_isRegister (c := c) h8 h).2 i
    simp only [hr, slotAddr, false_iff]
    omega
  · rw [target_above (by omega)]
    simp only [slotAddr]
    split
    · rw [Target.slot.injEq]
      omega
    · simp only [reduceCtorEq, false_iff]
      omega

/-- An aligned offset is reserved exactly between the registers and the slots and above the slots (20_memory.md R74). -/
theorem target_eq_reserved_iff {c : Config} {off : Nat} (h8 : off % 8 = 0) :
    target c off = .reserved ↔ (0x090 ≤ off ∧ off < 0x100000) ∨ 0x100000 + 8 * c.depth ≤ off := by
  by_cases h : off < 0x090
  · have hr := (target_below_isRegister (c := c) h8 h).1
    simp only [hr, false_iff]
    omega
  · rw [target_above (by omega)]
    simp only [slotAddr]
    split
    · simp only [reduceCtorEq, false_iff]
      omega
    · simp only [true_iff]
      omega

/-- A register's own offset is aligned and leads to it. -/
theorem Target.IsRegister.target_offset {t : Target} (h : t.IsRegister) (c : Config) :
    target c t.offset = t ∧ t.offset % 8 = 0 ∧ t.offset < 0x090 :=
  have ⟨_, hlt, h8⟩ := regMap_entry h.mem_regMap
  ⟨target_of_mem_regMap h.mem_regMap, h8, hlt⟩

/-- Settles O42, by the characterisation of `target` for registers, slots and reserved offsets. -/
theorem registerMapIsExact : Obligations.RegisterMapIsExact := by
  intro c table
  refine ⟨fun off t hr hs => target_eq_register_iff ⟨hr, hs⟩, fun off i => target_eq_slot_iff,
    fun off => target_eq_reserved_iff, fun t hr hi => ?_⟩
  by_cases ht : t.IsRegister
  · obtain ⟨htarget, h8, _⟩ := ht.target_offset c
    exact ⟨htarget, h8⟩
  · obtain ⟨i, rfl⟩ : ∃ i, t = .slot i := by simpa [Target.IsRegister, hr] using ht
    have h8 : (Target.slot i).offset % 8 = 0 := by simp only [Target.offset, slotAddr]; omega
    exact ⟨(target_eq_slot_iff h8).2 ⟨hi i rfl, rfl⟩, h8⟩

end Sys2Proof.Machine
end

section
/-! One step: on an empty inbox, on the block's turn, and on a host write to a register. -/

namespace Sys2Proof.Machine

theorem step_of_inbox_nil {s : State} (h : s.inbox = []) : step s = s.blockTurn := by
  simp only [step, h]

theorem step_of_inbox_cons {s : State} {e : Event} {rest : List Event} (h : s.inbox = e :: rest) :
    step s = State.handle { s with inbox := rest } e := by
  simp only [step, h]

/-- The block's turn performs the command whose word the latch holds (10_state.md R40). -/
theorem State.blockTurn_of_decode {s : State} {q : Pending} {i : Instr} (hq : s.pend = some q)
    (hd : decode q.data = .ok i) : s.blockTurn = exec i s := by
  simp only [State.blockTurn, State.fetch, hq, Option.map_some, hd]

/-- Settles O5: both forms of the block's turn perform the word of the latch, which the inbox does not touch. -/
theorem stepRunsDecodedCommand : Obligations.StepRunsDecodedCommand := by
  intro s q i rest hq hd
  constructor
  · intro hi
    rw [step_of_inbox_cons hi]
    exact State.blockTurn_of_decode hq hd
  · intro hi
    rw [step_of_inbox_nil hi]
    exact State.blockTurn_of_decode hq hd

/-- A register's write is a permitted access inside the window (20_memory.md R71, R75), acknowledged (log 5). -/
theorem step_of_register_write {s : State} {t : Target} {d : DWord} {rest : List Event} (ht : t.IsRegister)
    (hi : s.inbox = wr s.cfg t d :: rest) :
    step s = .next ((State.hostWrite { s with inbox := rest } t d).respond .ack) := by
  obtain ⟨htarget, h8, hlt⟩ := ht.target_offset s.cfg
  have hoff : s.cfg.hostBase + t.offset - s.cfg.hostBase = t.offset := Nat.add_sub_cancel_left ..
  have hwindow : inWindow s.cfg (s.cfg.hostBase + t.offset) = true := decide_eq_true ⟨by omega, by omega⟩
  have hpermitted : permitted t.offset 8 = true := decide_eq_true ⟨rfl, h8⟩
  rw [step_of_inbox_cons hi]
  simp only [wr, State.handle, State.access, Access.addr, Access.bytes, hoff, hwindow, hpermitted, htarget, if_true]

/-- What a write to STATUS does, bit by bit (10_state.md R25, R27). -/
theorem State.writeStatus_eq (s : State) (d : DWord) :
    s.writeStatus d = { s with
      status := { s.status with
        done := s.status.done && !d.getLsbD 1
        err := s.status.err && !d.getLsbD 2
        ecode := if d.getLsbD 2 then 0 else s.status.ecode
        ovr := s.status.ovr && !d.getLsbD 3 } } := by
  unfold State.writeStatus
  cases d.getLsbD 2 <;> simp [State.clearErr]

/-- Settles O49: the bus takes a write to STATUS whatever BUSY is, and `State.writeStatus_eq` says what it does. -/
theorem statusWrite : Obligations.StatusWrite := by
  intro s d rest hi
  rw [step_of_register_write (by simp [Target.IsRegister]) hi]
  exact congrArg (fun u : State => Host.Outcome.next (u.respond .ack)) (State.writeStatus_eq { s with inbox := rest } d)

/-! ### The build -/

theorem State.blockTurn_cfg {s t : State} (h : s.blockTurn = .next t) : t.cfg = s.cfg := by
  rcases s.blockTurn_cases with ⟨_, e⟩ | ⟨_, _, ⟨_, _, e⟩ | ⟨i, _, e⟩⟩ <;> rw [e] at h
  · cases h; rfl
  · cases h; rfl
  · exact (exec_frame h).1

theorem State.access_cfg {s t : State} {a : Access} (h : s.access a = .next t) : t.cfg = s.cfg := by
  rcases s.access_cases a with ⟨_, e⟩ | ⟨_, _, e⟩ | ⟨_, _, ⟨_, _, _, e⟩ | ⟨_, _, _, _, e⟩⟩ <;> rw [e] at h <;> cases h
  · cases a <;> rfl
  · unfold State.hostRead
    split <;> rfl
  · exact (State.hostWrite_frame ..).1

/-- No step changes the build, reset included (log 1). -/
theorem step_cfg {s t : State} (h : step s = .next t) : t.cfg = s.cfg := by
  rcases step_cases s with ⟨_, e⟩ | ⟨ev, rest, _, e⟩ <;> rw [e] at h
  · exact State.blockTurn_cfg h
  · cases ev with
    | access a => exact State.access_cfg (s := { s with inbox := rest }) h
    | blockTurn => exact State.blockTurn_cfg (s := { s with inbox := rest }) h
    | reset => cases h; rfl

/-- The four fields of ID lie below bit 64 and apart from each other (10_state.md R23). -/
theorem idWord_toNat {c : Config} (h : c.wellFormed = true) :
    (idWord c).toNat = c.W + 2 ^ 8 * 0x01 + 2 ^ 16 * 0x4D50 + 2 ^ 32 * c.depth := by
  have hdepth : 1 ≤ c.depth ∧ c.depth ≤ 1966080 := of_decide_eq_true h
  have hW := c.W_le
  rw [idWord, BitVec.toNat_ofNat]
  omega

/-- Settles O14: ID is a function of the build, which no step changes. -/
theorem idNeverChanges : Obligations.IdNeverChanges := by
  refine ⟨fun s h => ?_, fun s t h => congrArg idWord (step_cfg h)⟩
  have hW := s.cfg.W_le
  rw [State.current, idWord_toNat h]
  omega

end Sys2Proof.Machine
end

section
/-! What the registers and slots read as (10_state.md R22 to R38), and what a register write changes of it. -/

namespace Sys2Proof.Machine

/-! ### STATUS and CTRL, bit by bit -/

/-- STATUS as a row of bits: the six of R25 and R26, two reserved ones, and ECODE above them (10_state.md R25–R27). -/
theorem Status.toWord_toNat (t : Status) :
    t.toWord.toNat = Nat.bit t.busy (Nat.bit t.done (Nat.bit t.err (Nat.bit t.ovr (Nat.bit t.c (Nat.bit t.z
      (Nat.bit false (Nat.bit false t.ecode.toNat))))))) := by
  have hecode := t.ecode.isLt
  have hbusy := t.busy.toNat_le
  have hdone := t.done.toNat_le
  have herr := t.err.toNat_le
  have hovr := t.ovr.toNat_le
  have hc := t.c.toNat_le
  have hz := t.z.toNat_le
  simp only [Nat.bit_val, Bool.toNat_false, Status.toWord, BitVec.toNat_ofNat]
  omega

theorem Status.getLsbD_toWord (t : Status) :
    t.toWord.getLsbD 0 = t.busy ∧ t.toWord.getLsbD 1 = t.done ∧ t.toWord.getLsbD 2 = t.err
      ∧ t.toWord.getLsbD 3 = t.ovr ∧ t.toWord.getLsbD 4 = t.c ∧ t.toWord.getLsbD 5 = t.z
      ∧ t.toWord.getLsbD 6 = false ∧ t.toWord.getLsbD 7 = false
      ∧ ∀ b, t.toWord.getLsbD (8 + b) = t.ecode.getLsbD b := by
  simp only [BitVec.getLsbD, Status.toWord_toNat, Nat.add_comm 8, Nat.testBit_bit_zero, Nat.testBit_bit_succ, and_self,
    implies_true]

/-- CTRL as a row of bits (10_state.md R24, R38). -/
theorem Ctrl.toWord_toNat (t : Ctrl) : t.toWord.toNat = Nat.bit t.capchk (Nat.bit t.ie 0) := by
  have hcapchk := t.capchk.toNat_le
  have hie := t.ie.toNat_le
  simp only [Nat.bit_val, Ctrl.toWord, BitVec.toNat_ofNat]
  omega

theorem Ctrl.getLsbD_toWord (t : Ctrl) :
    t.toWord.getLsbD 0 = t.capchk ∧ t.toWord.getLsbD 1 = t.ie ∧ ∀ b, t.toWord.getLsbD (2 + b) = false := by
  simp only [BitVec.getLsbD, Ctrl.toWord_toNat, Nat.add_comm 2, Nat.testBit_bit_zero, Nat.testBit_bit_succ,
    Nat.zero_testBit, and_self, implies_true]

/-- A write to CTRL keeps its two used bits (10_state.md R24, R38). -/
theorem Ctrl.toWord_ofWord (d : DWord) : (Ctrl.ofWord d).toWord.toNat = d.toNat % 2 ^ 2 := by
  rw [Ctrl.toWord_toNat]
  simp only [Ctrl.ofWord, BitVec.getLsbD, Nat.bit_val, Nat.toNat_testBit]
  omega

/-! ### The registers of width W and the slots -/

/-- A register of width W reads as its W bits, zero-extended (10_state.md R37). -/
theorem toNat_ofNat_limbVal (c : Config) (v : DWord) : (BitVec.ofNat 64 (limbVal c v)).toNat = v.toNat % 2 ^ c.W :=
  Nat.mod_eq_of_lt (lt_two_pow_64 c (limbVal_lt c v))

theorem State.current_slot (s : State) (i : Nat) : (s.current (.slot i)).toNat = s.limb i :=
  Nat.mod_eq_of_lt (lt_two_pow_64 s.cfg (s.limb_lt i))

/-- Settles O43: STATUS and CTRL by their rows of bits, every other target by its zero extension. -/
theorem currentValues : Obligations.CurrentValues := by
  intro s
  refine ⟨?_, ?_, ?_⟩
  · obtain ⟨hbusy, hdone, herr, hovr, hc, hz, h6, h7, hecode⟩ := s.status.getLsbD_toWord
    refine ⟨hbusy, hdone, herr, hovr, hc, hz, ?_, ?_⟩
    · refine BitVec.eq_of_getLsbD_eq fun b hb => ?_
      rw [BitVec.getLsbD_extractLsb', decide_eq_true hb, Bool.true_and]
      exact hecode b
    · rintro b (rfl | rfl | hb)
      · exact h6
      · exact h7
      · obtain ⟨k, rfl⟩ := Nat.exists_eq_add_of_le (Nat.le_trans (by decide : 8 ≤ 16) hb)
        exact (hecode k).trans (BitVec.getLsbD_of_ge _ _ (by omega))
  · obtain ⟨hcapchk, hie, hrest⟩ := s.regs.ctrl.getLsbD_toWord
    refine ⟨hcapchk, hie, fun b hb => ?_⟩
    obtain ⟨k, rfl⟩ := Nat.exists_eq_add_of_le hb
    exact hrest k
  · have extended {n : Nat} (hn : n ≤ 64) (x : BitVec n) : (x.setWidth 64).toNat = x.toNat :=
      BitVec.toNat_setWidth_of_le hn
    exact ⟨extended (by decide) _, extended (by decide) _, extended (by decide) _, extended (by decide) _,
      extended (by decide) _, extended (by decide) _, extended (by decide) _, extended (by decide) _,
      toNat_ofNat_limbVal .., toNat_ofNat_limbVal .., toNat_ofNat_limbVal .., toNat_ofNat_limbVal ..,
      toNat_ofNat_limbVal .., fun i => ⟨s.current_slot i, s.limb_lt i⟩, rfl⟩

/-- What a target reads as does not depend on the bus's last answer. -/
@[simp] theorem State.current_respond (s : State) (r : Response) (t : Target) :
    (s.respond r).current t = s.current t := by
  cases t
  case slot i => simp only [State.current, State.respond_limb]
  all_goals rfl

/-! ### Register writes -/

/-- The registers that keep what the host writes while BUSY = 0 (10_state.md R24, R28, R30–R32). -/
def writableRegs : List Target := [.ctrl, .p, .abase, .alen, .cbase, .clen, .bval, .opa, .opb]

/-- While BUSY = 0 the step takes a write to a writable register (20_memory.md R76). -/
theorem step_of_idle_register_write {s : State} {t : Target} {d : DWord} {rest : List Event}
    (hb : s.status.busy = false) (ht : t ∈ writableRegs) (hi : s.inbox = wr s.cfg t d :: rest) :
    step s = .next ((State.writeTarget { s with inbox := rest } t d).respond .ack) := by
  have hne : t ≠ .status ∧ t ≠ .cmd := by constructor <;> rintro rfl <;> simp [writableRegs] at ht
  have hreg : t.IsRegister := by
    refine ⟨?_, fun i => ?_⟩ <;> rintro rfl <;> simp [writableRegs] at ht
  rw [step_of_register_write hreg hi]
  rcases State.hostWrite_cases { s with inbox := rest } t d with ⟨h, _⟩ | ⟨_, hbusy, _⟩ | ⟨h, _⟩ | ⟨_, _, _, h⟩
  · exact absurd h hne.1
  · exact absurd (hb.symm.trans hbusy) (by decide)
  · exact absurd h hne.2
  · rw [h]

/-- A register write changes the registers alone. -/
theorem State.writeTarget_frame {t : Target} (ht : t ∈ writableRegs) (s : State) (d : DWord) :
    s.writeTarget t d = { s with regs := (s.writeTarget t d).regs } := by
  cases t with
  | slot i => simp [writableRegs] at ht
  | _ => rfl

/-- What a written register then reads as: the bits it has (10_state.md R24, R28, R30–R32, R37). -/
theorem State.current_writeTarget_same {t : Target} (ht : t ∈ writableRegs) (s : State) (d : DWord) :
    ((s.writeTarget t d).current t).toNat
      = d.toNat % (if t = .ctrl then 2 ^ 2 else if t ∈ [Target.bval, .opa, .opb] then 2 ^ s.cfg.W else 2 ^ 32) := by
  have word32 : ((d.setWidth 32).setWidth 64).toNat = d.toNat % 2 ^ 32 := by
    rw [BitVec.toNat_setWidth_of_le (by decide), BitVec.toNat_setWidth]
  have limb : (BitVec.ofNat 64 (limbVal s.cfg (limbReg s.cfg d.toNat))).toNat = d.toNat % 2 ^ s.cfg.W := by
    rw [toNat_ofNat_limbVal, limbReg_toNat, Nat.mod_mod]
  cases t with
  | ctrl => exact Ctrl.toWord_ofWord d
  | p | abase | alen | cbase | clen => exact word32
  | bval | opa | opb => exact limb
  | _ => simp [writableRegs] at ht

/-- No write changes what another writable register reads as. -/
theorem State.current_writeTarget_other {t u : Target} (hu : u ∈ writableRegs) (hne : u ≠ t) (s : State) (d : DWord) :
    (s.writeTarget t d).current u = s.current u := by
  cases u with
  | ctrl | p | abase | alen | cbase | clen | bval | opa | opb =>
    unfold State.writeTarget
    split <;> trivial
  | _ => simp [writableRegs] at hu

/-- Settles O53, by what `State.writeTarget` does to each writable register and to the others. -/
theorem registerWriteReadsBack : Obligations.RegisterWriteReadsBack := by
  intro s t d rest hb ht hi
  refine ⟨_, step_of_idle_register_write hb ht hi, ?_, ?_, fun t' ht' hne => ?_⟩
  · rw [State.writeTarget_frame ht]
    rfl
  · rw [State.current_respond]
    exact State.current_writeTarget_same ht { s with inbox := rest } d
  · rw [State.current_respond, State.current_writeTarget_other ht' hne, State.current_inbox]

end Sys2Proof.Machine
end

section
/-! MPN and LMASK, the registers that describe the modulus 2^p - 1 (10_state.md R29, 00_scope.md R6, conflict C1). -/

namespace Sys2Proof.Machine

/-- For p of at least 1, ceil(p / W) counts the whole limbs below bit p - 1 and the one that holds it. -/
theorem mpn_eq_succ (c : Config) {p : Nat} (hp : 1 ≤ p) : mpn c p = (p - 1) / c.W + 1 := by
  rw [mpn, ← Nat.add_div_right _ c.W_pos]
  congr 1
  omega

/-- MPN limbs hold p bits, and one limb fewer does not. -/
theorem mpn_bounds (c : Config) {p : Nat} (hp : 1 ≤ p) : p ≤ mpn c p * c.W ∧ (mpn c p - 1) * c.W < p := by
  have hdiv := Nat.div_add_mod (p - 1) c.W
  have hmod := Nat.mod_lt (p - 1) c.W_pos
  rw [mpn_eq_succ c hp, Nat.add_sub_cancel, Nat.succ_mul, Nat.mul_comm]
  omega

/-- LMASK covers the bits of p above the lower limbs (conflict C1: all W of them where W divides p). -/
theorem lmask_eq_two_pow_sub (c : Config) {p : Nat} (hp : 1 ≤ p) :
    lmask c p = 2 ^ (p - (mpn c p - 1) * c.W) - 1 := by
  obtain ⟨hle, hlt⟩ := mpn_bounds c hp
  have hsucc : mpn c p * c.W = c.W * (mpn c p - 1) + c.W := by
    rw [← Nat.mul_succ, Nat.mul_comm, Nat.succ_eq_add_one, mpn_eq_succ c hp, Nat.add_sub_cancel]
  rw [Nat.mul_comm] at hlt ⊢
  have hmod : (p - c.W * (mpn c p - 1)) % c.W = p % c.W := Nat.sub_mul_mod hlt.le
  have htop : p - c.W * (mpn c p - 1) ≤ c.W := by omega
  rw [lmask, ← hmod]
  rcases htop.eq_or_lt with h | h
  · rw [h, Nat.mod_self, if_pos rfl]
  · rw [Nat.mod_eq_of_lt h, if_neg (by omega)]

/-- The bits of 2^p - 1 from bit k on. -/
theorem two_pow_sub_one_div (p k : Nat) : (2 ^ p - 1) / 2 ^ k = 2 ^ (p - k) - 1 := by
  refine Nat.eq_of_testBit_eq fun i => ?_
  rw [Nat.testBit_div_two_pow, Nat.testBit_two_pow_sub_one, Nat.testBit_two_pow_sub_one, decide_eq_decide]
  omega

theorem lmask_lt (c : Config) (p : Nat) : lmask c p < 2 ^ c.W := by
  have hpow : 2 ^ (p % c.W) ≤ 2 ^ c.W := Nat.pow_le_pow_right (by decide) (Nat.mod_lt _ c.W_pos).le
  have hpos := Nat.two_pow_pos (p % c.W)
  unfold lmask
  split <;> omega

/-- The register MPN reads as the limb count for the current P. -/
theorem State.current_mpn (s : State) : (s.current .mpn).toNat = mpn s.cfg s.regs.p.toNat := by
  have hp := s.regs.p.isLt
  have hW := s.cfg.W_le
  have hle : mpn s.cfg s.regs.p.toNat ≤ s.regs.p.toNat + s.cfg.W - 1 := Nat.div_le_self _ _
  exact Nat.mod_eq_of_lt (by omega)

/-- The register LMASK reads as the top limb's mask for the current P. -/
theorem State.current_lmask (s : State) : (s.current .lmask).toNat = lmask s.cfg s.regs.p.toNat :=
  Nat.mod_eq_of_lt (lt_two_pow_64 s.cfg (lmask_lt ..))

/-- Settles O37: the top limb by `two_pow_sub_one_div`, the two registers by their readings for the current P. -/
theorem mpnAndLmaskDescribeModulus : Obligations.MpnAndLmaskDescribeModulus := by
  refine ⟨fun c p hp => ?_, ?_⟩
  · obtain ⟨hle, hlt⟩ := mpn_bounds c hp
    have hfits : 2 ^ p ≤ 2 ^ (mpn c p * c.W) := Nat.pow_le_pow_right (by decide) hle
    have hneeds : 2 ^ ((mpn c p - 1) * c.W) < 2 ^ p := Nat.pow_lt_pow_right (by decide) hlt
    have hpos := Nat.two_pow_pos p
    refine ⟨by omega, by omega, ?_⟩
    rw [two_pow_sub_one_div, lmask_eq_two_pow_sub c hp]
  · intro reads
    have current (s : State) : reads s s.regs.p.toNat := by
      refine ⟨s.current_mpn, ?_, s.current_lmask, s.current_lmask⟩
      rw [s.current_mpn, mpn, Nat.add_sub_assoc s.cfg.W_pos]
    refine ⟨current, fun s d rest hb hi => ?_⟩
    refine ⟨_, step_of_idle_register_write hb (by simp [writableRegs]) hi, ?_⟩
    rw [← BitVec.toNat_setWidth]
    exact current _

end Sys2Proof.Machine
end

section
/-! The host's permitted accesses: where `RD` and `WR` of an existing target lead, and the step on a read or a write
(20_memory.md R71, R75, R76). -/

namespace Sys2Proof.Machine

/-- An existing target's own offset is aligned and leads to it (10_state.md R22, 20_memory.md R72, R74). -/
theorem target_offset_of_exists {c : Config} {t : Target} (ht : ∀ i, t = .slot i → i < c.depth) :
    target c t.offset = t ∧ t.offset % 8 = 0 := by
  by_cases hr : t = .reserved
  · subst hr
    exact ⟨(target_eq_reserved_iff rfl).2 (.inl ⟨Nat.le_refl _, by decide⟩), rfl⟩
  · obtain ⟨_, _, _, own⟩ := registerMapIsExact c
    exact own t hr ht

/-- In an allowed build every existing target lies in the window (20_memory.md R70, 00_scope.md R5). -/
theorem Target.offset_lt_window {c : Config} (hc : c.wellFormed = true) {t : Target}
    (ht : ∀ i, t = .slot i → i < c.depth) : t.offset < 2 ^ 24 := by
  cases t with
  | slot i =>
    have hdepth : 1 ≤ c.depth ∧ c.depth ≤ 1966080 := of_decide_eq_true hc
    have hi := ht i rfl
    simp only [Target.offset, slotAddr]
    omega
  | _ => decide

/-- A permitted read in the window answers for the target of its offset. -/
theorem step_of_permitted_read {s : State} {x : Nat} {rest : List Event} (hw : inWindow s.cfg x = true)
    (h8 : (x - s.cfg.hostBase) % 8 = 0) (hi : s.inbox = .access (.read x 8) :: rest) :
    step s = .next (State.hostRead { s with inbox := rest } (target s.cfg (x - s.cfg.hostBase))) := by
  have hpermitted : permitted (x - s.cfg.hostBase) 8 = true := decide_eq_true ⟨rfl, h8⟩
  rw [step_of_inbox_cons hi]
  simp only [State.handle, State.access, Access.addr, Access.bytes, hw, hpermitted, if_true]

/-- A permitted write in the window is taken by the target of its offset and acknowledged (log 5). -/
theorem step_of_permitted_write {s : State} {x : Nat} {d : DWord} {rest : List Event} (hw : inWindow s.cfg x = true)
    (h8 : (x - s.cfg.hostBase) % 8 = 0) (hi : s.inbox = .access (.write x 8 d) :: rest) :
    step s = .next ((State.hostWrite { s with inbox := rest } (target s.cfg (x - s.cfg.hostBase)) d).respond .ack) := by
  have hpermitted : permitted (x - s.cfg.hostBase) 8 = true := decide_eq_true ⟨rfl, h8⟩
  rw [step_of_inbox_cons hi]
  simp only [State.handle, State.access, Access.addr, Access.bytes, hw, hpermitted, if_true]

section
variable {s : State} {t : Target} {rest : List Event}

/-- The address of an existing target is in the window, aligned, and leads to the target. -/
theorem address_of_exists (hc : s.cfg.wellFormed = true) (ht : ∀ i, t = .slot i → i < s.cfg.depth) :
    inWindow s.cfg (s.cfg.hostBase + t.offset) = true ∧ (s.cfg.hostBase + t.offset - s.cfg.hostBase) % 8 = 0
      ∧ target s.cfg (s.cfg.hostBase + t.offset - s.cfg.hostBase) = t := by
  obtain ⟨htarget, h8⟩ := target_offset_of_exists ht
  have hlt := Target.offset_lt_window hc ht
  rw [Nat.add_sub_cancel_left]
  exact ⟨decide_eq_true ⟨by omega, by omega⟩, h8, htarget⟩

/-- `RD t` of an existing target (30_encoding.md R106). -/
theorem step_of_rd (hc : s.cfg.wellFormed = true) (ht : ∀ i, t = .slot i → i < s.cfg.depth)
    (hi : s.inbox = rd s.cfg t :: rest) : step s = .next (State.hostRead { s with inbox := rest } t) := by
  obtain ⟨hw, h8, htarget⟩ := address_of_exists hc ht
  rw [step_of_permitted_read hw h8 hi, htarget]

/-- `WR t, d` of an existing target (30_encoding.md R106). -/
theorem step_of_wr {d : DWord} (hc : s.cfg.wellFormed = true) (ht : ∀ i, t = .slot i → i < s.cfg.depth)
    (hi : s.inbox = wr s.cfg t d :: rest) :
    step s = .next ((State.hostWrite { s with inbox := rest } t d).respond .ack) := by
  obtain ⟨hw, h8, htarget⟩ := address_of_exists hc ht
  rw [step_of_permitted_write hw h8 hi, htarget]

end

end Sys2Proof.Machine
end

section
/-! What a read answers: the current value while BUSY = 0, partly a free value while BUSY = 1 (20_memory.md R76, R81;
93_implementation_defined.md I6), and 0 for a reserved offset (R74). -/

namespace Sys2Proof.Machine

theorem State.hostRead_of_idle {s : State} (hb : s.status.busy = false) (t : Target) :
    s.hostRead t = s.respond (.data (s.current t)) := by
  rw [State.hostRead, hb]
  rfl

theorem State.hostRead_of_busy {s : State} (hb : s.status.busy = true) (t : Target) :
    s.hostRead t =
      { s with response := .data (s.whileBusy (Config.freeRead s.draws) t), draws := s.draws + 1 } := by
  rw [State.hostRead, hb]
  rfl

/-- Settles O44: both forms of `State.hostRead` write the answer and the draw count alone. -/
theorem readsHaveNoSideEffects : Obligations.ReadsHaveNoSideEffects := by
  intro s x rest hw h8 hi
  refine ⟨_, step_of_permitted_read hw h8 hi, ?_⟩
  cases hb : s.status.busy with
  | false =>
    rw [State.hostRead_of_idle (s := { s with inbox := rest }) hb, State.current_inbox]
    exact ⟨rfl, fun _ => ⟨rfl, rfl⟩⟩
  | true =>
    rw [State.hostRead_of_busy (s := { s with inbox := rest }) hb]
    exact ⟨rfl, fun h => nomatch h⟩

/-! ### While BUSY = 1 -/

/-- A target that is stable while BUSY = 1 reads as its current value (20_memory.md R81(d)). -/
theorem State.whileBusy_of_readable {t : Target} (ht : t.readableWhileBusy = true) (hne : t ≠ .status) (s : State)
    (u : DWord) : s.whileBusy u t = s.current t := by
  cases t with
  | slot | rlo | rhi | passes => cases ht
  | status => exact absurd rfl hne
  | _ => rfl

@[simp] theorem State.whileBusy_inbox (s : State) (rest : List Event) (u : DWord) (t : Target) :
    State.whileBusy { s with inbox := rest } u t = s.whileBusy u t := by
  cases t <;> rfl

/-- LM, RLO and RHI read as some W-bit value (93_implementation_defined.md I6). -/
theorem State.whileBusy_limb_lt {t : Target} (ht : t = .rlo ∨ t = .rhi ∨ ∃ i, t = .slot i) (s : State) (u : DWord) :
    (s.whileBusy u t).toNat < 2 ^ s.cfg.W := by
  have limb : (BitVec.ofNat 64 (limbVal s.cfg u)).toNat < 2 ^ s.cfg.W := by
    rw [toNat_ofNat_limbVal]
    exact Nat.mod_lt _ (Nat.two_pow_pos _)
  rcases ht with rfl | rfl | ⟨i, rfl⟩ <;> exact limb

/-- PASSES reads as some 32-bit value (93_implementation_defined.md I6). -/
theorem State.whileBusy_passes_lt (s : State) (u : DWord) : (s.whileBusy u .passes).toNat < 2 ^ 32 := by
  rw [State.whileBusy, BitVec.toNat_setWidth_of_le (by decide)]
  exact (u.setWidth 32).isLt

/-- The flags C and Z are bits 4 and 5 of STATUS and show in no other bit (10_state.md R25, R26). -/
theorem Status.getLsbD_toWord_flags (t : Status) (c z : Bool) {b : Nat} (h4 : b ≠ 4) (h5 : b ≠ 5) :
    (Status.toWord { t with c := c, z := z }).getLsbD b = t.toWord.getLsbD b := by
  obtain ⟨hbusy, hdone, herr, hovr, _, _, h6, h7, hecode⟩ := Status.getLsbD_toWord { t with c := c, z := z }
  obtain ⟨hbusy', hdone', herr', hovr', _, _, h6', h7', hecode'⟩ := t.getLsbD_toWord
  match b with
  | 0 => exact hbusy.trans hbusy'.symm
  | 1 => exact hdone.trans hdone'.symm
  | 2 => exact herr.trans herr'.symm
  | 3 => exact hovr.trans hovr'.symm
  | 4 => exact absurd rfl h4
  | 5 => exact absurd rfl h5
  | 6 => exact h6.trans h6'.symm
  | 7 => exact h7.trans h7'.symm
  | b + 8 =>
    rw [Nat.add_comm b 8]
    exact (hecode b).trans (hecode' b).symm

/-- Settles O45, by what `State.whileBusy` gives for each kind of target. -/
theorem readWhileBusy : Obligations.ReadWhileBusy := by
  intro s t rest hc hb ht hi
  refine ⟨s.whileBusy (Config.freeRead s.draws) t, s.draws + 1, ?_, ?_, ?_, ?_, ?_⟩
  · rw [step_of_rd hc ht hi, State.hostRead_of_busy (s := { s with inbox := rest }) hb, State.whileBusy_inbox]
  · exact fun hread hne => State.whileBusy_of_readable hread hne s _
  · exact fun hlimb => State.whileBusy_limb_lt hlimb s _
  · rintro rfl
    exact s.whileBusy_passes_lt _
  · rintro rfl b h4 h5
    exact s.status.getLsbD_toWord_flags _ _ h4 h5

/-! ### Reserved offsets -/

theorem State.hostRead_reserved_response (s : State) : (s.hostRead .reserved).response = .data 0 := by
  unfold State.hostRead
  split <;> rfl

/-- Settles O52: such an offset is reserved (`target_eq_reserved_iff`), and a reserved one reads 0 whatever BUSY is. -/
theorem reservedOffsetsReadZero : Obligations.ReservedOffsetsReadZero := by
  intro s off rest h8 hoff hi
  have hw : inWindow s.cfg (s.cfg.hostBase + off) = true := decide_eq_true ⟨by omega, by omega⟩
  have htarget : target s.cfg off = .reserved := (target_eq_reserved_iff h8).2 (by omega)
  refine ⟨_, step_of_permitted_read hw (by rwa [Nat.add_sub_cancel_left]) hi, ?_⟩
  rw [Nat.add_sub_cancel_left, htarget]
  exact State.hostRead_reserved_response _

end Sys2Proof.Machine
end

section
/-! What a write does: a limb's slot, CMD, and the writes that are dropped or ignored (20_memory.md R72, R74, R81, R82). -/

namespace Sys2Proof.Machine

@[simp] theorem State.limb_inbox (s : State) (rest : List Event) (i : Nat) :
    State.limb { s with inbox := rest } i = s.limb i :=
  State.limb_congr (s := s) (t := { s with inbox := rest }) rfl rfl rfl i

/-! ### The operation by kind of target -/

/-- While BUSY = 1 every write but one to STATUS is dropped (20_memory.md R81(a), 60_exceptions.md R263). -/
theorem State.hostWrite_of_busy {s : State} (hb : s.status.busy = true) {t : Target} (ht : t ≠ .status) (d : DWord) :
    s.hostWrite t d = s.setOvr := by
  rcases s.hostWrite_cases t d with ⟨h, _⟩ | ⟨_, _, e⟩ | ⟨_, h, _⟩ | ⟨_, _, h, _⟩
  · exact absurd h ht
  · exact e
  · exact absurd (hb.symm.trans h) (by decide)
  · exact absurd (hb.symm.trans h) (by decide)

/-- While BUSY = 0 a target other than STATUS and CMD takes the write (20_memory.md R76). -/
theorem State.hostWrite_of_idle {s : State} (hb : s.status.busy = false) {t : Target} (hs : t ≠ .status) (hc : t ≠ .cmd)
    (d : DWord) : s.hostWrite t d = s.writeTarget t d := by
  rcases s.hostWrite_cases t d with ⟨h, _⟩ | ⟨_, h, _⟩ | ⟨h, _⟩ | ⟨_, _, _, e⟩
  · exact absurd h hs
  · exact absurd (hb.symm.trans h) (by decide)
  · exact absurd h hc
  · exact e

/-- A write to CMD is dropped while BUSY = 1 or ERR = 1 (20_memory.md R82). -/
theorem State.hostWrite_cmd_dropped {s : State} (h : s.status.busy = true ∨ s.status.err = true) (d : DWord) :
    s.hostWrite .cmd d = s.setOvr := by
  cases hb : s.status.busy with
  | true => exact State.hostWrite_of_busy hb (by decide) d
  | false =>
    have he : s.status.err = true := h.resolve_left (by simp [hb])
    simp [State.hostWrite, State.issue, hb, he]

/-- Else it is accepted (20_memory.md R82). -/
theorem State.hostWrite_cmd_accepted {s : State} (hb : s.status.busy = false) (he : s.status.err = false) (d : DWord) :
    s.hostWrite .cmd d = s.accept d := by
  simp [State.hostWrite, State.issue, hb, he]

/-- While BUSY = 0 a read-only register or a reserved offset ignores a write (10_state.md R38, 20_memory.md R74). -/
theorem State.hostWrite_ignored {s : State} (hb : s.status.busy = false) {t : Target} (ht : t.ignoresWrites = true)
    (d : DWord) : s.hostWrite t d = s := by
  rw [State.hostWrite_of_idle hb (by rintro rfl; cases ht) (by rintro rfl; cases ht)]
  cases t with
  | id | mpn | lmask | rlo | rhi | passes | einfo | reserved => rfl
  | _ => cases ht

/-! ### The step -/

/-- While BUSY = 0 the step writes an existing limb (20_memory.md R72). -/
theorem step_of_idle_slot_write {s : State} {i : Nat} {d : DWord} {rest : List Event} (hc : s.cfg.wellFormed = true)
    (hb : s.status.busy = false) (hlt : i < s.cfg.depth) (hi : s.inbox = wr s.cfg (.slot i) d :: rest) :
    step s = .next ((State.setLimb { s with inbox := rest } i d.toNat).respond .ack) := by
  rw [step_of_wr hc (by rintro _ ⟨⟩; exact hlt) hi,
    State.hostWrite_of_idle (s := { s with inbox := rest }) hb (by simp) (by simp)]
  rfl

/-- Settles O54, by what a limb write does to the limbs and bytes. -/
theorem slotWriteReadsBack : Obligations.SlotWriteReadsBack := by
  intro s i d rest hc hb hlt hi
  refine ⟨_, step_of_idle_slot_write hc hb hlt hi, rfl, ?_, fun j hj => ?_, fun x hx => ?_⟩
  · rw [State.current_slot, State.respond_limb, State.limb_setLimb_same]
  · rw [State.respond_limb, State.limb_setLimb_other _ _ hj, State.limb_inbox]
  · exact State.byteAt_memWrite_outside { s with inbox := rest } (n := 1) hx

/-- Settles O48: `State.hostWrite` on CMD by whether BUSY or ERR is set. -/
theorem commandWrite : Obligations.CommandWrite := by
  intro s d rest hi
  have hstep := step_of_register_write (by simp [Target.IsRegister]) hi
  constructor
  · intro h
    rw [hstep, State.hostWrite_cmd_dropped (s := { s with inbox := rest }) h]
    rfl
  · intro hb he
    rw [hstep, State.hostWrite_cmd_accepted (s := { s with inbox := rest }) hb he]
    rfl

/-- Settles O50, by the drop rule `State.hostWrite_of_busy`. -/
theorem busyWriteIsDropped : Obligations.BusyWriteIsDropped := by
  intro s x d rest hw h8 ht hb hi
  rw [step_of_permitted_write hw h8 hi, State.hostWrite_of_busy (s := { s with inbox := rest }) hb ht]
  rfl

/-- Settles O51: ignored while BUSY = 0, and while BUSY = 1 a case of the drop rule (O50). -/
theorem ignoredWriteChangesNothing : Obligations.IgnoredWriteChangesNothing := by
  intro s x d rest hw h8 ht hi
  cases hb : s.status.busy with
  | true =>
    rw [Bool.or_true]
    exact busyWriteIsDropped s x d rest hw h8 (fun h => by rw [h] at ht; cases ht) hb hi
  | false =>
    rw [Bool.or_false, step_of_permitted_write hw h8 hi, State.hostWrite_ignored (s := { s with inbox := rest }) hb ht]
    rfl

end Sys2Proof.Machine
end

section
/-! Accesses the bus refuses (20_memory.md R75) and accesses outside the window (R70, R71). -/

namespace Sys2Proof.Machine

/-- Settles O46: such an access is not permitted, and a refusal writes the answer, the draw count and the host-side fault
alone. -/
theorem refusedAccessChangesNothing : Obligations.RefusedAccessChangesNothing := by
  intro s a rest hw hbad hi
  have hrefused : permitted (a.addr - s.cfg.hostBase) a.bytes = false := decide_eq_false (by omega)
  have hstep : step s = .next (State.refuseAccess { s with inbox := rest } a) := by
    rw [step_of_inbox_cons hi]
    simp only [State.handle, State.access, hw, hrefused, if_true, Bool.false_eq_true, if_false]
  refine ⟨_, hstep, ?_⟩
  cases a with
  | read x n => exact ⟨rfl, .inr ⟨_, rfl⟩⟩
  | write x n d => exact ⟨rfl, .inl rfl⟩

/-- Settles O47: `inWindow` is false there, whatever the access. -/
theorem outsideWindowFaults : Obligations.OutsideWindowFaults := by
  intro s a rest hout hi
  have hw : inWindow s.cfg a.addr = false := decide_eq_false (by omega)
  rw [step_of_inbox_cons hi]
  simp only [State.handle, State.access, hw, Bool.false_eq_true, if_false]

end Sys2Proof.Machine
end

section
/-! The byte lanes of a slot (20_memory.md R73). -/

namespace Sys2Proof.Machine

/-- Byte `k` of a little-endian number is the byte at offset `k`, and 0 above its `n` bytes. -/
theorem State.byte_of_loadLE (s : State) (x n k : Nat) :
    BitVec.ofNat 8 (s.loadLE x n / 2 ^ (8 * k)) = if k < n then s.byteAt (x + k) else 0 := by
  induction n generalizing x k with
  | zero => simp [State.loadLE]
  | succ n ih =>
    rw [State.loadLE]
    cases k with
    | zero =>
      refine BitVec.eq_of_toNat_eq ?_
      have hb : (s.byteAt x).toNat < 256 := (s.byteAt x).isLt
      simp [hb]
    | succ k =>
      have hb := (s.byteAt x).isLt
      have tail : ((s.byteAt x).toNat + 2 ^ 8 * s.loadLE (x + 1) n) / 2 ^ (8 * (k + 1))
          = s.loadLE (x + 1) n / 2 ^ (8 * k) := by
        rw [Nat.mul_succ, Nat.add_comm (8 * k), pow_add, ← Nat.div_div_eq_div_mul,
          Nat.add_mul_div_left _ _ (by decide), Nat.div_eq_of_lt hb, Nat.zero_add]
      rw [tail, ih, Nat.add_right_comm, Nat.add_assoc x]
      simp only [Nat.add_lt_add_iff_right]

/-- In an existing limb's slot the window shows the bytes of the limb. -/
theorem State.windowByte_slot (s : State) {i k : Nat} (hi : i < s.cfg.depth) (hk : k < 8) :
    s.windowByte (slotAddr i + k) = BitVec.ofNat 8 (s.limb i / 2 ^ (8 * k)) := by
  have hbase : 8 * ((slotAddr i + k) / 8) = slotAddr i := by simp only [slotAddr]; omega
  have hlane : (slotAddr i + k) % 8 = k := by simp only [slotAddr]; omega
  have htarget : target s.cfg (slotAddr i) = .slot i :=
    (target_eq_slot_iff (by simp only [slotAddr]; omega)).2 ⟨hi, rfl⟩
  rw [State.windowByte, hbase, hlane, htarget, BitVec.extractLsb', State.current_slot, Nat.shiftRight_eq_div_pow]

/-- Settles O41: the limb is the little-endian number of its W/8 stored bytes. -/
theorem slotByteLanes : Obligations.SlotByteLanes := by
  intro s i k hi hk
  rw [s.windowByte_slot hi hk]
  exact ⟨rfl, s.byte_of_loadLE (slotAddr i) s.cfg.bytes k⟩

end Sys2Proof.Machine
end

section
/-! The canonical form of the memory (log 10), kept by every step in every state whatever. -/

namespace Sys2Proof.Machine

theorem State.exec_mem_wf {s t : State} (h : s.mem.wf) {i : Instr} (ht : exec i s = .next t) : t.mem.wf := by
  rcases exec_cases i s with ⟨e, h1⟩ | h1 | ⟨lo, hi, h1⟩ | ⟨_, ⟨v, h1⟩ | ⟨k, v, h1⟩⟩ | ⟨_, r, o, h1⟩ <;>
    rw [h1] at ht <;> cases ht
  · exact h
  · exact h
  · exact h
  · exact Memory.writeLimbs_wf h ..
  · exact Memory.writeLimbs_wf h ..
  · exact Memory.writeLimbs_wf h ..

theorem State.blockTurn_mem_wf {s t : State} (h : s.mem.wf) (ht : s.blockTurn = .next t) : t.mem.wf := by
  rcases s.blockTurn_cases with ⟨_, e⟩ | ⟨_, _, ⟨_, _, e⟩ | ⟨i, _, e⟩⟩ <;> rw [e] at ht
  · cases ht; exact h
  · cases ht; exact h
  · exact State.exec_mem_wf h ht

/-- A write changes memory only where it is a slot's, by one limb. -/
theorem State.hostWrite_mem_wf {s : State} (h : s.mem.wf) (t : Target) (d : DWord) : (s.hostWrite t d).mem.wf := by
  rcases s.hostWrite_cases t d with ⟨_, e⟩ | ⟨_, _, e⟩ | ⟨_, _, e⟩ | ⟨_, _, _, e⟩ <;> rw [e]
  · rw [State.writeStatus_eq]; exact h
  · exact h
  · unfold State.issue
    split <;> exact h
  · cases t with
    | slot i => exact Memory.writeLimb_wf h ..
    | _ => exact h

theorem State.access_mem_wf {s t : State} (h : s.mem.wf) {a : Access} (ht : s.access a = .next t) : t.mem.wf := by
  rcases s.access_cases a with ⟨_, e⟩ | ⟨_, _, e⟩ | ⟨_, _, ⟨_, _, _, e⟩ | ⟨_, _, d, _, e⟩⟩ <;> rw [e] at ht <;> cases ht
  · cases a <;> exact h
  · unfold State.hostRead
    split <;> exact h
  · exact State.hostWrite_mem_wf h _ d

/-- Settles O13: a command, a write and a reset each keep the canonical form, and nothing else writes memory. -/
theorem stepKeepsMemoryCanonical : Obligations.StepKeepsMemoryCanonical := by
  intro s t h ht
  rcases step_cases s with ⟨_, e⟩ | ⟨ev, rest, _, e⟩ <;> rw [e] at ht
  · exact State.blockTurn_mem_wf h ht
  · cases ev with
    | access a => exact State.access_mem_wf (s := { s with inbox := rest }) h ht
    | blockTurn => exact State.blockTurn_mem_wf (s := { s with inbox := rest }) h ht
    | reset => cases ht; exact List.Pairwise.nil

end Sys2Proof.Machine
end

section
/-! The command word: its fields as arithmetic, and decoding an encoding (30_encoding.md R100, R103). -/

namespace Sys2Proof

theorem opcField_eq (d : DWord) : opcField d = d.toNat % 2 ^ 8 := by
  simp [opcField]

theorem imm6Field_eq (d : DWord) : imm6Field d = d.toNat / 2 ^ 8 % 2 ^ 6 := by
  simp [imm6Field, Nat.shiftRight_eq_div_pow]

theorem reservedField_eq (d : DWord) : reservedField d = d.toNat / 2 ^ 14 % 2 ^ 50 := by
  simp [reservedField, Nat.shiftRight_eq_div_pow]

theorem Instr.opc_lt (i : Instr) : i.opc < 2 ^ 8 := by
  cases i <;> simp [Instr.opc]

theorem Instr.imm6_lt {i : Instr} (h : i.wellFormed = true) : i.imm6 < 2 ^ 6 := by
  cases i with
  | kodd off => exact of_decide_eq_true h
  | _ => decide

/-- The table of R103 gives each command back from its opcode and immediate. -/
theorem opcodeMap_opc_imm6 (i : Instr) : opcodeMap i.opc i.imm6 = some i := by
  cases i <;> rfl

/-- KODD alone has an immediate (30_encoding.md R103). -/
theorem Instr.imm6_eq_zero {i : Instr} (h : i.opc ≠ 0x04) : i.imm6 = 0 := by
  cases i with
  | kodd off => exact absurd rfl h
  | _ => rfl

theorem encode_toNat {i : Instr} (h : i.wellFormed = true) : (encode i).toNat = i.opc + 2 ^ 8 * i.imm6 := by
  have hopc := i.opc_lt
  have himm := Instr.imm6_lt h
  rw [encode, BitVec.toNat_ofNat]
  omega

/-- The three fields of an encoding (30_encoding.md R100). -/
theorem fields_encode {i : Instr} (h : i.wellFormed = true) :
    opcField (encode i) = i.opc ∧ imm6Field (encode i) = i.imm6 ∧ reservedField (encode i) = 0 := by
  have hopc := i.opc_lt
  have himm := Instr.imm6_lt h
  rw [opcField_eq, imm6Field_eq, reservedField_eq, encode_toNat h]
  omega

/-- A well-formed command's encoding decodes to it (30_encoding.md R103). -/
theorem decode_encode {i : Instr} (h : i.wellFormed = true) : decode (encode i) = .ok i := by
  obtain ⟨hopc, himm, hres⟩ := fields_encode h
  have legal : ¬ (i.opc ≠ 0x04 ∧ i.imm6 ≠ 0) := fun ⟨hne, himm⟩ => himm (Instr.imm6_eq_zero hne)
  simp only [decode, hopc, himm, hres, opcodeMap_opc_imm6, ne_eq, not_true_eq_false, if_false]
  exact if_neg legal

end Sys2Proof
end

section
/-! A command from its CMD write to its result: the fetched word, and the litmus run write, issue, complete, read
(20_memory.md R80, R82). -/

namespace Sys2Proof.Machine

/-- `withFetchWord` with all 64 bits of a word accepts that word. -/
theorem State.withFetchWord_eq (s : State) (d : DWord) :
    s.withFetchWord 64 d.toNat
      = { s.accept d with inbox := if s.inbox.isEmpty then [] else .blockTurn :: s.inbox } := by
  rw [State.withFetchWord, Nat.mod_eq_of_lt d.isLt, BitVec.ofNat_toNat, BitVec.setWidth_eq]

/-- The block's turn performs a command just accepted (10_state.md R40). -/
theorem step_of_accepted {s : State} {i : Instr} {rest : List Event} (h : i.wellFormed = true)
    (hp : s.pend = some { data := encode i, snap := s.regs }) (hi : s.inbox = .blockTurn :: rest) :
    step s = exec i { s with inbox := rest } :=
  (stepRunsDecodedCommand s _ i rest hp (decode_encode h)).1 hi

/-- Settles O6: with an empty inbox and with a longer one, the next turn is the block's. -/
theorem fetchWordRunsItsCommand : Obligations.FetchWordRunsItsCommand := by
  intro s i h
  rw [State.withFetchWord_eq]
  cases hi : s.inbox with
  | nil =>
    have hsame : { s.accept (encode i) with inbox := [] } = s.accept (encode i) := by rw [← hi]; rfl
    have hrun := stepRunsDecodedCommand (s.accept (encode i)) _ i [] rfl (decode_encode h)
    exact (congrArg step hsame).trans (hrun.2 hi)
  | cons e rest =>
    refine (step_of_accepted h rfl rfl).trans ?_
    rw [← hi]
    rfl

/-- The block's turn on an accepted command, then `RD` of a slot: no command touches the inbox or leaves BUSY set. -/
theorem run_turn_read {s t : State} {i : Instr} {j : Nat} (hc : s.cfg.wellFormed = true) (hj : j < s.cfg.depth)
    (h : i.wellFormed = true) (hp : s.pend = some { data := encode i, snap := s.regs })
    (hi : s.inbox = [.blockTurn, rd s.cfg (.slot j)]) (ht : exec i { s with inbox := [rd s.cfg (.slot j)] } = .next t) :
    Sys2Proof.core.run 2 s = .next (State.respond { t with inbox := [] } (.data (t.current (.slot j)))) := by
  have hturn : step s = .next t := (step_of_accepted h hp hi).trans ht
  obtain ⟨hcfg, _, _, hinbox, _, _, _, _, _, hbusy, _⟩ := exec_frame ht
  have hcfg : t.cfg = s.cfg := hcfg
  have hread : step t = .next (State.respond { t with inbox := [] } (.data (t.current (.slot j)))) := by
    rw [← hcfg] at hinbox hj hc
    rw [step_of_rd hc (by rintro _ ⟨⟩; exact hj) hinbox, State.hostRead_of_idle (s := { t with inbox := [] }) hbusy,
      State.current_inbox]
  rw [core_run_of_next hturn, core_run_of_next hread]
  rfl

/-- The same from `ISSUE` on, while BUSY = 0 and ERR = 0: the command is accepted and performed. -/
theorem run_issue_turn_read {s : State} {i : Instr} {j : Nat} (hc : s.cfg.wellFormed = true) (hb : s.status.busy = false)
    (he : s.status.err = false) (h : i.wellFormed = true) (hj : j < s.cfg.depth)
    (hi : s.inbox = [issueEvent s.cfg i, .blockTurn, rd s.cfg (.slot j)]) :
    ∃ t, exec i { s.accept (encode i) with inbox := [rd s.cfg (.slot j)], response := .ack } = .next t
      ∧ Sys2Proof.core.run 3 s = .next (State.respond { t with inbox := [] } (.data (t.current (.slot j)))) := by
  obtain ⟨t, ht⟩ := exec_next i { s.accept (encode i) with inbox := [rd s.cfg (.slot j)], response := .ack }
  refine ⟨t, ht, ?_⟩
  rw [core_run_of_next ((commandWrite s (encode i) _ hi).2 hb he)]
  exact run_turn_read hc hj h rfl rfl ht

/-- Settles O56: the slot write is the first step, and `run_issue_turn_read` is the other three. -/
theorem writeIssueWaitRead : Obligations.WriteIssueWaitRead := by
  intro s i k j d hc hb he h hk hj hi
  have hwrite := step_of_idle_slot_write hc hb hk hi
  obtain ⟨t, ht, hrun⟩ := run_issue_turn_read (i := i) (j := j)
    (s := (State.setLimb { s with inbox := [issueEvent s.cfg i, .blockTurn, rd s.cfg (.slot j)] } k d.toNat).respond .ack)
    hc hb he h hj rfl
  exact ⟨t, _, ht, (core_run_of_next hwrite 3).trans hrun, rfl, rfl⟩

end Sys2Proof.Machine
end

section
/-! The legal command words (30_encoding.md R103, R104): what `decode` accepts, and the command it gives. -/

namespace Sys2Proof

/-- The immediate of an encodable command is 6 bits wide (30_encoding.md R101). -/
theorem Instr.wellFormed_iff (i : Instr) : i.wellFormed = true ↔ i.imm6 < 2 ^ 6 :=
  ⟨Instr.imm6_lt, fun h => by
    cases i with
    | kodd off => exact decide_eq_true h
    | _ => rfl⟩

/-- The converse of `opcodeMap_opc_imm6`: a row of R103 keeps the opcode, and KODD's row the immediate. -/
theorem opc_imm6_of_opcodeMap {opc imm : Nat} {i : Instr} (h : opcodeMap opc imm = some i) :
    i.opc = opc ∧ (opc = 0x04 → i.imm6 = imm) := by
  unfold opcodeMap at h
  split at h <;> cases h <;> simp [Instr.opc, Instr.imm6]

/-- The OPC column of the table of 30_encoding.md R103. -/
def opcodes : List Nat := [0x00, 0x01, 0x02, 0x03, 0x04, 0x10, 0x11, 0x20, 0x30, 0x31, 0x32, 0x40]

theorem Instr.opc_mem_opcodes (i : Instr) : i.opc ∈ opcodes := by
  cases i <;> simp [Instr.opc, opcodes]

/-- The opcode map is defined exactly on the table's opcodes (30_encoding.md R103, R104(a)). -/
theorem exists_opcodeMap_iff {opc imm : Nat} : (∃ i, opcodeMap opc imm = some i) ↔ opc ∈ opcodes := by
  constructor
  · rintro ⟨i, h⟩
    exact (opc_imm6_of_opcodeMap h).1 ▸ i.opc_mem_opcodes
  · intro h
    simp only [opcodes, List.mem_cons, List.not_mem_nil, or_false] at h
    rcases h with rfl | rfl | rfl | rfl | rfl | rfl | rfl | rfl | rfl | rfl | rfl | rfl <;> exact ⟨_, rfl⟩

/-- A word decodes exactly when its reserved bits are 0, its OPC stands in the table and only KODD has an immediate; the
command is then the table's (30_encoding.md R103, R104). -/
theorem decode_eq_ok_iff {d : DWord} {i : Instr} :
    decode d = .ok i ↔ reservedField d = 0 ∧ opcodeMap (opcField d) (imm6Field d) = some i
      ∧ (opcField d ≠ 0x04 → imm6Field d = 0) := by
  unfold decode
  by_cases hres : reservedField d = 0
  · cases hmap : opcodeMap (opcField d) (imm6Field d) with
    | none => simp [hres]
    | some j =>
      by_cases himm : opcField d ≠ 0x04 ∧ imm6Field d ≠ 0
      · simp [hres, himm]
      · have hkodd : opcField d ≠ 0x04 → imm6Field d = 0 := by simpa using himm
        simpa [hres, himm] using fun _ => hkodd
  · simp [hres]

/-- A decoded command has the word's own fields. -/
theorem fields_of_decode {d : DWord} {i : Instr} (h : decode d = .ok i) :
    i.opc = opcField d ∧ i.imm6 = imm6Field d ∧ reservedField d = 0 := by
  obtain ⟨hres, hmap, hkodd⟩ := decode_eq_ok_iff.1 h
  obtain ⟨hopc, himm⟩ := opc_imm6_of_opcodeMap hmap
  refine ⟨hopc, ?_, hres⟩
  by_cases h4 : opcField d = 0x04
  · exact himm h4
  · rw [Instr.imm6_eq_zero (hopc.trans_ne h4), hkodd h4]

/-- The three fields are the whole word (30_encoding.md R100). -/
theorem toNat_eq_fields (d : DWord) :
    d.toNat = opcField d + 2 ^ 8 * imm6Field d + 2 ^ 14 * reservedField d := by
  have hd := d.isLt
  rw [opcField_eq, imm6Field_eq, reservedField_eq]
  omega

/-- R104's cases (a) to (d), as they stand in the rule, are exactly the words `decode` refuses. -/
theorem exists_decode_iff (d : DWord) :
    (∃ i, decode d = .ok i) ↔
      ¬ (d.toNat % 2 ^ 8 ∉ opcodes ∨ d.toNat / 2 ^ 14 % 2 ^ 2 ≠ 0 ∨ d.toNat / 2 ^ 16 ≠ 0
        ∨ (d.toNat / 2 ^ 8 % 2 ^ 6 ≠ 0 ∧ d.toNat % 2 ^ 8 ≠ 0x04)) := by
  have hd := d.isLt
  have hres : reservedField d = 0 ↔ d.toNat / 2 ^ 14 % 2 ^ 2 = 0 ∧ d.toNat / 2 ^ 16 = 0 := by
    rw [reservedField_eq]
    omega
  simp only [decode_eq_ok_iff, exists_and_left, exists_and_right, exists_opcodeMap_iff, hres, opcField_eq, imm6Field_eq]
  tauto

/-- Settles O1, by the fields of an encoding (`decode_encode`). -/
theorem decodeEncodeRoundTrip : Obligations.DecodeEncodeRoundTrip :=
  fun _ => decode_encode

/-- Settles O2: the word and the encoding have the same three fields, and the reserved one is 0. -/
theorem legalWordIsItsEncoding : Obligations.LegalWordIsItsEncoding := by
  intro d i h
  obtain ⟨hopc, himm, hres⟩ := fields_of_decode h
  have hwf : i.wellFormed = true := i.wellFormed_iff.2 (himm ▸ (d.extractLsb' 8 6).isLt)
  refine ⟨hwf, BitVec.eq_of_toNat_eq ?_⟩
  calc (encode i).toNat = opcField d + 2 ^ 8 * imm6Field d := by rw [encode_toNat hwf, hopc, himm]
    _ = d.toNat := by rw [toNat_eq_fields d, hres, Nat.mul_zero, Nat.add_zero]

/-- Settles O4: the legal words decode because they are encodings. -/
theorem workedEncodings : Obligations.WorkedEncodings := by
  have hkodd : encode (.kodd 5) = 0x0504 := by decide
  have hsqr : encode .sqr = 0x0020 := by decide
  have hred : encode .red = 0x0030 := by decide
  exact ⟨hkodd, hsqr, hred, hkodd ▸ decode_encode rfl, hsqr ▸ decode_encode rfl, hred ▸ decode_encode rfl,
    by decide, by decide⟩

end Sys2Proof
end

section
/-! An illegal word in flight (30_encoding.md R104, 60_exceptions.md R252, R258). -/

namespace Sys2Proof.Machine

/-- What raising ILLEGAL_CMD writes, with the word of the latch (60_exceptions.md R252, R258). -/
theorem State.raise_illegalCmd_eq {s : State} {q : Pending} (hq : s.pend = some q) :
    s.raise .illegalCmd = { s with
      status := { s.status with busy := false, err := true, ecode := 1 }
      einfo := q.data.setWidth 16
      pend := none } := by
  simp only [State.raise, State.word, hq, ErrCode.code]

/-- The block's turn on a word that does not decode (30_encoding.md R104). -/
theorem State.blockTurn_of_illegal {s : State} {q : Pending} (hq : s.pend = some q)
    (h : ¬ ∃ i, decode q.data = .ok i) : s.blockTurn = .next (s.raise .illegalCmd) := by
  cases hd : decode q.data with
  | ok i => exact absurd ⟨i, hd⟩ h
  | error r => simp only [State.blockTurn, State.fetch, hq, Option.map_some, hd]

/-- Settles O3: `exists_decode_iff` says which words are illegal, and both forms of the block's turn raise the error. -/
theorem illegalWordsComplete : Obligations.IllegalWordsComplete := by
  intro d illegal ended
  have hlegal : (∃ i, decode d = .ok i) ↔ ¬ illegal := exists_decode_iff d
  refine ⟨hlegal.2, fun hill s q hq hd => ?_⟩
  subst hd
  have hrefused : ¬ ∃ i, decode q.data = .ok i := fun hok => hlegal.1 hok hill
  constructor
  · intro hi
    rw [step_of_inbox_nil hi, State.blockTurn_of_illegal hq hrefused, State.raise_illegalCmd_eq hq]
  · intro rest hi
    have hq' : State.pend { s with inbox := rest } = some q := hq
    rw [step_of_inbox_cons hi, State.handle, State.blockTurn_of_illegal hq' hrefused, State.raise_illegalCmd_eq hq']

end Sys2Proof.Machine
end

section
/-! The limb kernel (40_limb_kernel.md R130 to R136): one lemma for the end its four commands share, the arithmetic behind each
pair, and the four results. -/

namespace Sys2Proof.Machine

/-! ### The operands and the pair -/

theorem State.opA_lt (s : State) : s.opA < 2 ^ s.cfg.W := limbVal_lt ..

theorem State.opB_lt (s : State) : s.opB < 2 ^ s.cfg.W := limbVal_lt ..

/-- The end of a kernel command: RLO and RHI hold the limbs given, BUSY, DONE and the latch are as after any completion, and
nothing else differs (10_state.md R33, 60_exceptions.md R258). -/
theorem State.finish_setPair_spec (s : State) {lo hi : Nat} (hlo : lo < 2 ^ s.cfg.W) (hhi : hi < 2 ^ s.cfg.W) :
    (s.setPair lo hi).finish.rlo.toNat = lo ∧ (s.setPair lo hi).finish.rhi.toNat = hi
      ∧ (s.setPair lo hi).finish.completedFrom s ∧ (s.setPair lo hi).finish.sameButPair s :=
  ⟨(limbReg_toNat ..).trans (Nat.mod_eq_of_lt hlo), (limbReg_toNat ..).trans (Nat.mod_eq_of_lt hhi),
    ⟨rfl, rfl, rfl, rfl, rfl, rfl⟩, rfl⟩

/-- The pair of KADD and KMUL: a value of two limbs, split into its low and its high one (40_limb_kernel.md R130, R134). -/
theorem State.finish_setPair_split (s : State) {v : Nat} (hv : v < 2 ^ s.cfg.W * 2 ^ s.cfg.W) :
    let t := (s.setPair (v % 2 ^ s.cfg.W) (v >>> s.cfg.W)).finish
    t.rlo.toNat = v % 2 ^ s.cfg.W ∧ t.rhi.toNat = v / 2 ^ s.cfg.W ∧ t.rhi.toNat * 2 ^ s.cfg.W + t.rlo.toNat = v
      ∧ t.completedFrom s ∧ t.sameButPair s := by
  have hlo : v % 2 ^ s.cfg.W < 2 ^ s.cfg.W := Nat.mod_lt _ (Nat.two_pow_pos _)
  have hhi : v / 2 ^ s.cfg.W < 2 ^ s.cfg.W := Nat.div_lt_of_lt_mul hv
  rw [Nat.shiftRight_eq_div_pow]
  obtain ⟨rlo, rhi, completed, frame⟩ := s.finish_setPair_spec hlo hhi
  refine ⟨rlo, rhi, ?_, completed, frame⟩
  rw [rlo, rhi, Nat.mul_comm, Nat.div_add_mod]

/-! ### Wide add and wide multiply -/

/-- Settles O16: the sum of two limbs is below twice `2 ^ W`, so its high limb is 0 or 1. -/
theorem kaddResult : Obligations.KaddResult := by
  intro s
  have ha := s.opA_lt
  have hb := s.opB_lt
  have carry : (s.opA + s.opB) / 2 ^ s.cfg.W < 2 := Nat.div_lt_of_lt_mul (by omega)
  have fits : s.opA + s.opB < 2 ^ s.cfg.W * 2 ^ s.cfg.W := by
    have htwo : 2 ≤ 2 ^ s.cfg.W := Nat.le_self_pow s.cfg.W_pos.ne' 2
    have := Nat.mul_le_mul_right (2 ^ s.cfg.W) htwo
    omega
  obtain ⟨rlo, rhi, value, completed, frame⟩ := s.finish_setPair_split fits
  exact ⟨_, rfl, rlo, rhi, value, by omega, completed, frame⟩

/-- The high limb of a product of two limbs is at most `n - 2` (40_limb_kernel.md R135): the greatest product is `(n - 1)²`. -/
theorem mul_div_le_sub_two {n a b : Nat} (hn : 1 < n) (ha : a < n) (hb : b < n) : a * b / n ≤ n - 2 := by
  have hprod : a * b < (n - 1) * n := Nat.mul_lt_mul_of_le_of_lt (Nat.le_pred_of_lt ha) hb (Nat.sub_pos_of_lt hn)
  have hquot : a * b / n < n - 1 := (Nat.div_lt_iff_lt_mul (Nat.zero_lt_of_lt hn)).2 hprod
  omega

/-- Settles O18: `finish_setPair_split` on the product, with the bound of `mul_div_le_sub_two`. -/
theorem kmulResult : Obligations.KmulResult := by
  intro s
  obtain ⟨rlo, rhi, value, completed, frame⟩ := s.finish_setPair_split (Nat.mul_lt_mul'' s.opA_lt s.opB_lt)
  have high := mul_div_le_sub_two (Nat.one_lt_two_pow s.cfg.W_pos.ne') s.opA_lt s.opB_lt
  exact ⟨_, rfl, rlo, rhi, value, rhi.trans_le high, completed, frame⟩

/-! ### Wide subtract -/

/-- Adding the two's complement of `b` modulo `n` gives `a - b`, with `n` added back exactly on a borrow
(40_limb_kernel.md R132, R133). -/
theorem add_complement_mod_sub_borrow {n a b : Nat} (ha : a < n) (hb : b < n) :
    (((a + (n - 1 - b + 1) % n) % n : Nat) : Int) - (if a < b then 1 else 0 : Nat) * (n : Int) = (a : Int) - b := by
  rw [Nat.add_mod_mod]
  split
  next borrow =>
    have hsum : a + (n - 1 - b + 1) = n + a - b := by omega
    rw [hsum, Nat.mod_eq_of_lt (by omega)]
    omega
  next noBorrow =>
    have hsum : a + (n - 1 - b + 1) = a - b + n := by omega
    rw [hsum, Nat.add_mod_right, Nat.mod_eq_of_lt (by omega)]
    omega

/-- Settles O17: `add_complement_mod_sub_borrow` is the law of R133. -/
theorem ksubResult : Obligations.KsubResult := by
  intro s
  have hlo : (s.opA + (complement s.cfg s.opB + 1) % 2 ^ s.cfg.W) % 2 ^ s.cfg.W < 2 ^ s.cfg.W :=
    Nat.mod_lt _ (Nat.two_pow_pos _)
  have hhi : (if s.opA < s.opB then 1 else 0) < 2 ^ s.cfg.W := lt_of_le_of_lt (by split <;> decide) (Nat.one_lt_two_pow s.cfg.W_pos.ne')
  obtain ⟨rlo, rhi, completed, frame⟩ := s.finish_setPair_spec hlo hhi
  refine ⟨_, rfl, rlo, rhi, ?_, completed, frame⟩
  have law := add_complement_mod_sub_borrow s.opA_lt s.opB_lt
  rw [Nat.cast_pow, Nat.cast_ofNat] at law
  rwa [rlo, rhi]

/-! ### The odd-offset window -/

/-- The window is the limb pair `b * 2 ^ w + a` shifted right by the offset (40_limb_kernel.md R136). -/
theorem oddWindow_eq {w a off : Nat} (b : Nat) (ha : a < 2 ^ w) (hoff : off ≤ w) :
    oddWindow w a b off = ((b * 2 ^ w + a) >>> off) % 2 ^ w := by
  have hpair : b * 2 ^ w + a = b <<< w ||| a := by rw [← Nat.shiftLeft_add_eq_or_of_lt ha, Nat.shiftLeft_eq]
  have hhigh : (b <<< w) >>> off = b <<< (w - off) := by
    conv_lhs => rw [← Nat.sub_add_cancel hoff, Nat.shiftLeft_add, Nat.shiftLeft_shiftRight]
  rw [oddWindow, hpair, Nat.shiftRight_or_distrib, hhigh, Nat.or_comm]

/-- At offset 0 the window is the low limb. -/
theorem oddWindow_zero {w a : Nat} (b : Nat) (ha : a < 2 ^ w) : oddWindow w a b 0 = a := by
  rw [oddWindow_eq b ha (Nat.zero_le w), Nat.shiftRight_zero, Nat.mul_add_mod_self_right, Nat.mod_eq_of_lt ha]

/-- KODD at an offset within the width (40_limb_kernel.md R136). -/
theorem exec_kodd_of_lt {s : State} {off : Nat} (h : off < s.cfg.W) :
    exec (.kodd off) s = .next (s.setPair (oddWindow s.cfg.W s.opA s.opB off) 0).finish := by
  rw [exec, execKodd, offsetError, if_neg (Nat.not_le.2 h), State.guarded]

/-- KODD at an offset of W or more (60_exceptions.md R253). -/
theorem exec_kodd_of_le {s : State} {off : Nat} (h : s.cfg.W ≤ off) :
    exec (.kodd off) s = .next (s.raise .badOff) := by
  rw [exec, execKodd, offsetError, if_pos h, State.guarded]

/-- Settles O19: `exec_kodd_of_lt` with the two forms of the window, and `exec_kodd_of_le`. -/
theorem koddResult : Obligations.KoddResult := by
  refine fun s off => ⟨fun hoff => ?_, exec_kodd_of_le⟩
  have hlo : oddWindow s.cfg.W s.opA s.opB off < 2 ^ s.cfg.W := Nat.mod_lt _ (Nat.two_pow_pos _)
  obtain ⟨rlo, rhi, completed, frame⟩ := s.finish_setPair_spec hlo (Nat.two_pow_pos _)
  refine ⟨_, exec_kodd_of_lt hoff, rlo, rlo.trans (oddWindow_eq s.opB s.opA_lt hoff.le), ?_, rhi, completed, frame⟩
  rintro rfl
  exact rlo.trans (oddWindow_zero s.opB s.opA_lt)

end Sys2Proof.Machine
end

section
/-! ADDL and SUBL (41_linear_ops.md R160, R162 to R164): the end they share, what each computes, and that region A is all of the
limb memory they read and write. -/

namespace Sys2Proof.Machine

/-! ### The operands -/

theorem State.regionVal_lt (s : State) (r : Region) : s.regionVal r < 2 ^ (r.len * s.cfg.W) := s.memRead_lt ..

/-- The operand limb fits a nonempty region. -/
theorem State.bLimb_lt_cap (s : State) {r : Region} (hr : r.len ≠ 0) : s.bLimb < 2 ^ (r.len * s.cfg.W) :=
  (limbVal_lt ..).trans_le
    (Nat.pow_le_pow_right (by decide) (Nat.le_mul_of_pos_left _ (Nat.pos_of_ne_zero hr)))

/-! ### The shared end -/

/-- The end of ADDL and SUBL when their carry or borrow is no error: region A holds the result, C and Z follow R163, the protocol
bits and the latch are as after any completion, and nothing else differs. -/
theorem State.writeInPlace_spec {s : State} {r : Nat} {out : Bool} (hr : r < 2 ^ (s.regionA.len * s.cfg.W))
    (hout : out = true → s.src.ctrl.capchk = false) :
    ∃ t, s.writeInPlace r out = t
      ∧ t.regionVal s.regionA = r ∧ t.status.c = out ∧ (t.status.z = true ↔ t.regionVal s.regionA = 0)
      ∧ t.completedFrom s ∧ t.sameButRegion s s.regionA := by
  have hend : s.writeInPlace r out = ((s.memWrite s.regionA.base s.regionA.len r).flags out (r == 0)).finish := by
    rcases s.writeInPlace_cases r out with ⟨ho, hc, _⟩ | ⟨_, e⟩
    · exact absurd (hc.symm.trans (hout ho)) (by decide)
    · exact e
  have hval : ((s.memWrite s.regionA.base s.regionA.len r).flags out (r == 0)).finish.regionVal s.regionA = r := by
    rw [State.regionVal, State.finish_memRead, State.flags_memRead, State.memRead_memWrite_same, Nat.mod_eq_of_lt hr]
  refine ⟨_, hend, hval, rfl, ?_, ⟨rfl, rfl, rfl, rfl, rfl, rfl⟩, rfl, fun x hx => s.byteAt_memWrite_outside hx⟩
  rw [hval]
  exact beq_iff_eq

/-- ADDL on a region that its checks accept (41_linear_ops.md R160). -/
theorem exec_addl_of_ready {s : State} (h : s.inPlaceReady) :
    exec .addl s = .next (s.writeInPlace
      ((s.regionVal s.regionA + s.bLimb) % 2 ^ (s.regionA.len * s.cfg.W))
      (decide (2 ^ (s.regionA.len * s.cfg.W) ≤ s.regionVal s.regionA + s.bLimb))) := by
  rw [exec, execAddl, s.inPlaceError_none_iff.2 h, State.guarded]

/-- SUBL on a region that its checks accept (41_linear_ops.md R162). -/
theorem exec_subl_of_ready {s : State} (h : s.inPlaceReady) :
    exec .subl s = .next (s.writeInPlace
      (((s.regionVal s.regionA : Int) - s.bLimb) % (2 ^ (s.regionA.len * s.cfg.W) : Nat)).toNat
      (decide ((s.regionVal s.regionA : Int) - s.bLimb < 0))) := by
  rw [exec, execSubl, s.inPlaceError_none_iff.2 h, State.guarded]

/-! ### The results -/

/-- A sum below `2n` is its residue modulo `n` and a carry. -/
theorem mod_add_carry {n v : Nat} (h : v < 2 * n) : v % n + (decide (n ≤ v)).toNat * n = v := by
  by_cases carry : n ≤ v
  · rw [decide_eq_true carry, Nat.mod_eq_sub_mod carry, Nat.mod_eq_of_lt (by omega), Bool.toNat_true]
    omega
  · rw [decide_eq_false carry, Nat.mod_eq_of_lt (by omega), Bool.toNat_false, Nat.zero_mul, Nat.add_zero]

/-- A difference of residues modulo `n` wraps to a residue, less a borrow. -/
theorem sub_emod_borrow {n v b : Nat} (hv : v < n) (hb : b < n) :
    (((v : Int) - b) % n).toNat < n ∧ ((((v : Int) - b) % n).toNat : Int) = ((v : Int) - b) % n
      ∧ ((v : Int) - b) % n - (decide ((v : Int) - b < 0)).toNat * n = v - b := by
  have nonneg := Int.emod_nonneg ((v : Int) - b) (show (n : Int) ≠ 0 by omega)
  have below := Int.emod_lt_of_pos ((v : Int) - b) (show (0 : Int) < n by omega)
  refine ⟨by omega, Int.toNat_of_nonneg nonneg, ?_⟩
  by_cases borrow : (v : Int) - b < 0
  · rw [decide_eq_true borrow, ← Int.add_emod_right, Int.emod_eq_of_lt (by omega) (by omega), Bool.toNat_true]
    omega
  · rw [decide_eq_false borrow, Int.emod_eq_of_lt (by omega) (by omega), Bool.toNat_false]
    omega

/-- Settles O20: `exec_addl_of_ready` and the shared end, with `mod_add_carry` for R163's relation. -/
theorem addlResult : Obligations.AddlResult := by
  intro s ready fits
  have hcap : 0 < 2 ^ (s.regionA.len * s.cfg.W) := Nat.two_pow_pos _
  have hsum : s.regionVal s.regionA + s.bLimb < 2 * 2 ^ (s.regionA.len * s.cfg.W) := by
    have hv := s.regionVal_lt s.regionA
    have hb := s.bLimb_lt_cap ready.1
    omega
  have carry (ho : decide (2 ^ (s.regionA.len * s.cfg.W) ≤ s.regionVal s.regionA + s.bLimb) = true) :
      s.src.ctrl.capchk = false :=
    fits.resolve_left (Nat.not_lt.2 (of_decide_eq_true ho))
  obtain ⟨t, ht, value, c, z, completed, frame⟩ := State.writeInPlace_spec (Nat.mod_lt _ hcap) carry
  refine ⟨t, ht ▸ exec_addl_of_ready ready, value, ?_, c ▸ carry, z, completed, frame⟩
  rw [value, c, mod_add_carry hsum]

/-- Settles O21: `exec_subl_of_ready` and the shared end, with `sub_emod_borrow` for the wrap and R163's relation. -/
theorem sublResult : Obligations.SublResult := by
  intro s ready fits
  obtain ⟨hlt, wrap, law⟩ := sub_emod_borrow (s.regionVal_lt s.regionA) (s.bLimb_lt_cap ready.1)
  have borrow (ho : decide ((s.regionVal s.regionA : Int) - s.bLimb < 0) = true) : s.src.ctrl.capchk = false :=
    fits.resolve_left (by have := of_decide_eq_true ho; omega)
  obtain ⟨t, ht, value, c, z, completed, frame⟩ := State.writeInPlace_spec hlt borrow
  rw [← value] at wrap
  rw [← wrap, ← c] at law
  rw [Nat.cast_pow, Nat.cast_ofNat] at wrap law
  exact ⟨t, ht ▸ exec_subl_of_ready ready, wrap, law, c ▸ borrow, z, completed, frame⟩

/-! ### What they read and write -/

/-- What ADDL and SUBL compute depends on region A's value, the operand limb and the region's capacity alone. -/
theorem exec_linear_eq {i : Instr} (hi : i = .addl ∨ i = .subl) :
    ∃ f : Nat → Nat → Nat → Nat × Bool, ∀ s : State,
      exec i s = .next (s.guarded s.inPlaceError fun t =>
        let result := f (t.regionVal t.regionA) t.bLimb (t.regionA.cap t.cfg)
        t.writeInPlace result.1 result.2) := by
  rcases hi with rfl | rfl
  · exact ⟨fun v b n => ((v + b) % n, decide (n ≤ v + b)), fun _ => rfl⟩
  · exact ⟨fun v b n => (((v : Int) - b) % n |>.toNat, decide ((v : Int) - b < 0)), fun _ => rfl⟩

/-- The limbs of a region just written are those of the value written (00_scope.md R10). -/
theorem State.limbs_memWrite_same (s : State) (r : Region) (v : Nat) :
    (s.memWrite r.base r.len v).limbs r = (List.range r.len).map fun k => v / 2 ^ (k * s.cfg.W) % 2 ^ s.cfg.W :=
  List.map_congr_left fun _ hk => s.limb_memWrite_inside (List.mem_range.1 hk)

/-- The end of ADDL and SUBL writes no byte outside region A. -/
theorem State.byteAt_writeInPlace_outside (s : State) (r : Nat) (out : Bool) {x : Nat}
    (hx : s.regionA.hasByte s.cfg x = false) : (s.writeInPlace r out).byteAt x = s.byteAt x := by
  unfold State.writeInPlace
  split
  · rfl
  · exact s.byteAt_memWrite_outside hx

/-- Two states that differ in memory alone and agree on the limbs of a region. -/
structure State.AgreeOn (r : Region) (s s' : State) : Prop where
  fields : s' = { s with mem := s'.mem }
  limbs : s'.limbs r = s.limbs r

namespace State.AgreeOn

variable {s s' : State} {r : Region}

theorem cfg (h : s.AgreeOn r s') : s'.cfg = s.cfg := by rw [h.fields]

theorem src (h : s.AgreeOn r s') : s'.src = s.src := by rw [h.fields]; rfl

theorem bLimb (h : s.AgreeOn r s') : s'.bLimb = s.bLimb := by rw [h.fields]; rfl

theorem regionA (h : s.AgreeOn r s') : s'.regionA = s.regionA := by rw [h.fields]; rfl

theorem inPlaceError (h : s.AgreeOn r s') : s'.inPlaceError = s.inPlaceError := by rw [h.fields]; rfl

theorem regionVal (h : s.AgreeOn r s') : s'.regionVal r = s.regionVal r := by
  rw [State.regionVal_eq_limbsVal, State.regionVal_eq_limbsVal, h.cfg, h.limbs]

/-- An error writes no memory, and the same fields in both states. -/
theorem raise (h : s.AgreeOn r s') (e : ErrCode) : (s.raise e).AgreeOn r (s'.raise e) where
  fields := by rw [h.fields]; rfl
  limbs := by simpa only [State.limbs, State.raise_limb] using h.limbs

/-- One result, ended in both states, writes the same limbs and the same fields. -/
theorem writeInPlace (h : s.AgreeOn s.regionA s') (v : Nat) (out : Bool) :
    (s.writeInPlace v out).AgreeOn s.regionA (s'.writeInPlace v out) := by
  rw [State.writeInPlace, State.writeInPlace, h.src, h.regionA]
  split
  · exact h.raise _
  · refine ⟨by rw [h.fields]; rfl, ?_⟩
    simp only [State.limbs, State.finish_limb, State.flags_limb]
    exact (s'.limbs_memWrite_same s.regionA v).trans (h.cfg ▸ (s.limbs_memWrite_same s.regionA v).symm)

end State.AgreeOn

/-- Settles O23: the two states compute one result (`exec_linear_eq`), and the checks, the error and the end keep them in
agreement. -/
theorem linearTouchesRegionAOnly : Obligations.LinearTouchesRegionAOnly := by
  intro i s s' hi hs hl
  have agree : s.AgreeOn s.regionA s' := ⟨hs, hl⟩
  obtain ⟨f, hf⟩ := exec_linear_eq hi
  refine ⟨_, _, hf s, hf s', ?_⟩
  rw [agree.inPlaceError]
  cases s.inPlaceError with
  | some e =>
    obtain ⟨fields, limbs⟩ := agree.raise e
    exact ⟨fields, limbs, fun _ _ => ⟨rfl, rfl⟩⟩
  | none =>
    simp only [State.guarded, agree.regionA, agree.regionVal, agree.bLimb, agree.cfg]
    obtain ⟨fields, limbs⟩ := agree.writeInPlace _ _
    refine ⟨fields, limbs, fun x hx => ⟨s.byteAt_writeInPlace_outside _ _ hx, s'.byteAt_writeInPlace_outside _ _ ?_⟩⟩
    rw [agree.regionA, agree.cfg, hx]

end Sys2Proof.Machine
end

section
/-! The limb-serial algorithms (41_linear_ops.md R161, R162): each keeps the limb count, keeps the limbs in width and, with its
carry or borrow out, adds or subtracts its operand. These three facts determine its result. -/

namespace Sys2Proof.Machine

/-- Residues modulo `n` with carries (`σ = 1`) or borrows (`σ = -1`) of one total are the same: else they are `n` apart. -/
theorem eq_of_add_carry_eq {n v v' : Nat} {σ : Int} {c c' : Bool} (hσ : σ = 1 ∨ σ = -1) (hv : v < n) (hv' : v' < n)
    (total : (v : Int) + σ * (c.toNat * n) = v' + σ * (c'.toNat * n)) : v = v' ∧ c = c' := by
  by_cases same : c = c'
  · subst same
    exact ⟨by omega, rfl⟩
  · have apart : (c.toNat : Int) * n - c'.toNat * n = n ∨ (c.toNat : Int) * n - c'.toNat * n = -n := by
      cases c <;> cases c' <;> simp at same ⊢
    rcases hσ with rfl | rfl <;> omega

/-- `r`, limbs and a carry, is the list `xs` with `b` added (`σ = 1`) or subtracted (`σ = -1`, the carry a borrow). -/
structure Carried (w : Nat) (σ : Int) (xs : List Nat) (b : Nat) (r : List Nat × Bool) : Prop where
  length : r.1.length = xs.length
  fit : LimbsFit w r.1
  value : (limbsVal w r.1 : Int) + σ * (r.2.toNat * 2 ^ (xs.length * w)) = limbsVal w xs + σ * b

namespace Carried

variable {w : Nat} {σ : Int}

/-- No carry leaves the limbs as they are. -/
theorem zero {xs : List Nat} (hf : LimbsFit w xs) : Carried w σ xs 0 (xs, false) where
  length := rfl
  fit := hf
  value := by simp

/-- A carry past the top limb. -/
theorem nil : Carried w σ [] 1 ([], true) where
  length := rfl
  fit := by simp [LimbsFit]
  value := by simp [limbsVal]

/-- One limb more at the bottom: it takes the operand `b` and hands the carry `k` to the limbs above. -/
theorem cons {x y b k : Nat} {xs : List Nat} {r : List Nat × Bool} (h : Carried w σ xs k r) (hy : y < 2 ^ w)
    (digit : (y : Int) + σ * (k * 2 ^ w) = x + σ * b) : Carried w σ (x :: xs) b (y :: r.1, r.2) where
  length := congrArg (· + 1) h.length
  fit := List.forall_mem_cons.2 ⟨hy, h.fit⟩
  value := by
    have weight : (2 : Int) ^ ((xs.length + 1) * w) = 2 ^ w * 2 ^ (xs.length * w) := by rw [← pow_add]; congr 1; ring
    simp only [limbsVal, List.length_cons, weight]
    push_cast
    linear_combination digit + 2 ^ w * h.value

/-- The result is determined: equal totals split alike into limbs and carry. -/
theorem unique {xs : List Nat} {b : Nat} {r r' : List Nat × Bool} (hσ : σ = 1 ∨ σ = -1) (h : Carried w σ xs b r)
    (h' : Carried w σ xs b r') : r = r' := by
  have hlt := h.length ▸ limbsVal_lt h.fit
  have hlt' := h'.length ▸ limbsVal_lt h'.fit
  have total := h.value.trans h'.value.symm
  rw [← Nat.cast_ofNat (R := Int), ← Nat.cast_pow] at total
  obtain ⟨hv, hc⟩ := eq_of_add_carry_eq hσ hlt hlt' total
  exact Prod.ext (limbsVal_inj h.fit h'.fit (h.length.trans h'.length.symm) hv) hc

end Carried

/-- The carry scan adds one (41_linear_ops.md R161). -/
theorem carryScan_carried {w : Nat} {xs : List Nat} (hf : LimbsFit w xs) : Carried w 1 xs 1 (carryScan w xs) := by
  induction xs with
  | nil => exact Carried.nil
  | cons x xs ih =>
    have hx := hf x (by simp)
    rw [carryScan]
    split
    next wraps =>
      refine (ih hf.tail).cons (Nat.two_pow_pos w) ?_
      zify [Nat.one_le_two_pow] at wraps
      linear_combination -wraps
    next => exact (Carried.zero hf.tail).cons (by omega) (by push_cast; ring)

/-- The borrow scan subtracts one (41_linear_ops.md R162). -/
theorem borrowScan_carried {w : Nat} {xs : List Nat} (hf : LimbsFit w xs) : Carried w (-1) xs 1 (borrowScan w xs) := by
  induction xs with
  | nil => exact Carried.nil
  | cons x xs ih =>
    have hx := hf x (by simp)
    rw [borrowScan]
    split
    next wraps =>
      subst wraps
      refine (ih hf.tail).cons (Nat.sub_lt (Nat.two_pow_pos w) Nat.one_pos) ?_
      push_cast [Nat.one_le_two_pow]
      ring
    next stops =>
      refine (Carried.zero hf.tail).cons (by omega) ?_
      push_cast [Nat.one_le_iff_ne_zero.2 stops]
      ring

/-- The limb-serial addition adds its operand limb (41_linear_ops.md R160, R161). -/
theorem addSerial_carried {w b : Nat} {xs : List Nat} (hne : xs ≠ []) (hf : LimbsFit w xs) (hb : b < 2 ^ w) :
    Carried w 1 xs b (addSerial w xs b) := by
  cases xs with
  | nil => exact absurd rfl hne
  | cons x xs =>
    have hx := hf x (by simp)
    rw [addSerial]
    split
    next fits => exact (Carried.zero hf.tail).cons fits (by push_cast; ring)
    next carries =>
      refine (carryScan_carried hf.tail).cons (Nat.mod_lt _ (Nat.two_pow_pos w)) ?_
      rw [Nat.mod_eq_sub_mod (Nat.not_lt.1 carries), Nat.mod_eq_of_lt (by omega)]
      push_cast [Nat.not_lt.1 carries]
      ring

/-- The limb-serial subtraction subtracts its operand limb (41_linear_ops.md R162). -/
theorem subSerial_carried {w b : Nat} {xs : List Nat} (hne : xs ≠ []) (hf : LimbsFit w xs) (hb : b < 2 ^ w) :
    Carried w (-1) xs b (subSerial w xs b) := by
  cases xs with
  | nil => exact absurd rfl hne
  | cons x xs =>
    have hx := hf x (by simp)
    rw [subSerial]
    split
    next fits =>
      refine (Carried.zero hf.tail).cons (by omega) ?_
      push_cast [fits]
      ring
    next borrows =>
      refine (borrowScan_carried hf.tail).cons (by omega) ?_
      push_cast [hb.le.trans (Nat.le_add_left _ x)]
      ring

/-- A region that ADDL and SUBL accept has a limb. -/
theorem State.inPlaceReady.limbs_ne_nil {s : State} (h : s.inPlaceReady) : s.limbs s.regionA ≠ [] :=
  List.ne_nil_of_length_pos ((s.limbs_length _).symm ▸ Nat.pos_of_ne_zero h.1)

/-- The limbs of a region after a command, and a carry, related by value to the limbs before it. -/
theorem State.limbs_carried {s t : State} {r : Region} {σ : Int} {b : Nat} {out : Bool} (hc : t.cfg = s.cfg)
    (hv : (t.regionVal r : Int) + σ * (out.toNat * 2 ^ (r.len * s.cfg.W)) = s.regionVal r + σ * b) :
    Carried s.cfg.W σ (s.limbs r) b (t.limbs r, out) where
  length := by simp
  fit := hc ▸ t.limbs_fit r
  value := by
    rw [State.regionVal_eq_limbsVal, State.regionVal_eq_limbsVal, hc] at hv
    rwa [State.limbs_length]

/-- Settles O24: ADDL and the serial algorithm both add the operand limb, and `Carried.unique` makes them equal. -/
theorem serialAddYieldsAddl : Obligations.SerialAddYieldsAddl := by
  intro s ready fits
  obtain ⟨t, ht, _, value, _⟩ := addlResult s ready fits
  obtain ⟨hc, _⟩ := exec_frame ht
  refine ⟨t, ht, (State.limbs_carried hc ?_).unique (.inl rfl)
    (addSerial_carried ready.limbs_ne_nil (s.limbs_fit _) (limbVal_lt ..))⟩
  zify at value
  linear_combination value

/-- Settles O25: so do SUBL and the symmetric algorithm. -/
theorem serialSubYieldsSubl : Obligations.SerialSubYieldsSubl := by
  intro s ready fits
  obtain ⟨t, ht, _, value, _⟩ := sublResult s ready fits
  obtain ⟨hc, _⟩ := exec_frame ht
  refine ⟨t, ht, (State.limbs_carried hc ?_).unique (.inr rfl)
    (subSerial_carried ready.limbs_ne_nil (s.limbs_fit _) (limbVal_lt ..))⟩
  linear_combination value

end Sys2Proof.Machine
end

section
/-! The commands that write region C: what their end leaves in the limb memory and what it leaves alone, which checks stand
before it (60_exceptions.md R253 to R259), and each command on regions that it accepts. -/

namespace Sys2Proof.Machine

/-! ### The limbs of a number -/

/-- The low `n` limbs of width `w` of a number, least significant first. -/
def splitLimbs (w : Nat) : Nat → Nat → List Nat
  | 0, _ => []
  | n + 1, v => v % 2 ^ w :: splitLimbs w n (v / 2 ^ w)

/-- Limb `k` is bits `[k·w, (k+1)·w)` of the number. -/
theorem splitLimbs_eq_map (w n v : Nat) :
    splitLimbs w n v = (List.range n).map fun k => v / 2 ^ (k * w) % 2 ^ w := by
  induction n generalizing v with
  | zero => rfl
  | succ n ih =>
    have shift (k : Nat) : v / 2 ^ w / 2 ^ (k * w) = v / 2 ^ ((k + 1) * w) := by
      rw [Nat.div_div_eq_div_mul, ← pow_add, Nat.succ_mul, Nat.add_comm]
    simp [splitLimbs, ih, List.range_succ_eq_map, shift, Function.comp_def]

theorem splitLimbs_zero (w n : Nat) : splitLimbs w n 0 = List.replicate n 0 := by
  induction n with
  | zero => rfl
  | succ n ih => rw [splitLimbs, Nat.zero_mod, Nat.zero_div, ih, List.replicate_succ]

/-! ### The end of a command that writes region C -/

section
variable (s : State) {v : Nat}

/-- A value that fits region C is what region C then holds (00_scope.md R10). -/
theorem State.regionVal_writeResult (hv : v < 2 ^ (s.regionC.len * s.cfg.W)) :
    (s.writeResult v).regionVal s.regionC = v := by
  rw [State.regionVal, s.memRead_writeResult, Nat.mod_eq_of_lt hv]

/-- Limb `k` of region C takes its `W` bits of the value (00_scope.md R10). -/
theorem State.limb_writeResult {k : Nat} (hk : k < s.regionC.len) :
    (s.writeResult v).limb (s.regionC.base + k) = v / 2 ^ (k * s.cfg.W) % 2 ^ s.cfg.W := by
  rw [State.writeResult, State.finish_limb, State.flags_limb, s.limb_memWrite_inside hk]

/-- The low limbs of region C after a command that writes it. -/
theorem State.limbs_writeResult {n : Nat} (hn : n ≤ s.regionC.len) :
    (s.writeResult v).limbs { base := s.regionC.base, len := n } = splitLimbs s.cfg.W n v := by
  rw [splitLimbs_eq_map]
  exact List.map_congr_left fun k hk => s.limb_writeResult ((List.mem_range.1 hk).trans_le hn)

/-- The limbs of region C above a value of `n` limbs are 0. -/
theorem State.limb_writeResult_eq_zero {n k : Nat} (hv : v < 2 ^ (n * s.cfg.W)) (hn : n ≤ k) (hk : k < s.regionC.len) :
    (s.writeResult v).limb (s.regionC.base + k) = 0 := by
  have hvk : v < 2 ^ (k * s.cfg.W) := hv.trans_le (Nat.pow_le_pow_right (by decide) (Nat.mul_le_mul_right _ hn))
  rw [s.limb_writeResult hk, Nat.div_eq_of_lt hvk, Nat.zero_mod]

/-- A region disjoint from region C keeps its value. -/
theorem State.regionVal_writeResult_of_disjoint {r : Region}
    (h : s.regionC.base + s.regionC.len ≤ r.base ∨ r.base + r.len ≤ s.regionC.base) :
    (s.writeResult v).regionVal r = s.regionVal r := by
  rw [State.regionVal, State.writeResult, State.finish_memRead, State.flags_memRead, s.memRead_memWrite_outside h.symm,
    State.regionVal]

/-- C is 0, and Z says whether the value is 0. -/
theorem State.writeResult_flags :
    (s.writeResult v).status.c = false ∧ ((s.writeResult v).status.z = true ↔ v = 0) :=
  ⟨rfl, beq_iff_eq⟩

theorem State.writeResult_completedFrom : (s.writeResult v).completedFrom s :=
  ⟨rfl, rfl, rfl, rfl, rfl, rfl⟩

theorem State.writeResult_sameButRegion : (s.writeResult v).sameButRegion s s.regionC :=
  ⟨rfl, fun _ hx => s.byteAt_memWrite_outside hx⟩

end

/-! ### The checks pass -/

/-- A command reports no error exactly when no error has a cause (60_exceptions.md R259). -/
theorem reportedError_eq_none_iff {i : Instr} {s : State} : reportedError i s = none ↔ ∀ e, causeOf e i s = false := by
  have listed (e : ErrCode) : e ∈ reportOrder := by cases e <;> decide
  simp [reportedError, listed]

section
variable {i : Instr} {s : State}

/-- LENGTH has no cause on regions that are nonempty, region C long enough (60_exceptions.md R255). -/
theorem causeOf_length_eq_false_iff :
    causeOf .length i s = false ↔ (usesA i = true → s.regionA.len ≠ 0) ∧
      (usesC i = true → s.regionC.len ≠ 0 ∧ neededLimbs i s ≤ s.regionC.len) := by
  simp [causeOf]

/-- RANGE has no cause on regions in range (60_exceptions.md R256). -/
theorem causeOf_range_eq_false_iff :
    causeOf .range i s = false ↔
      (usesA i = true → s.regionA.inRange s.cfg) ∧ (usesC i = true → s.regionC.inRange s.cfg) := by
  simp [causeOf]

/-- OVERLAP has no cause on disjoint regions (60_exceptions.md R257). -/
theorem causeOf_overlap_eq_false_iff :
    causeOf .overlap i s = false ↔ (usesA i = true → usesC i = true → ¬ s.regionA.overlaps s.regionC) := by
  simp [causeOf]

/-- BADP has no cause from p = 2 on (60_exceptions.md R254). -/
theorem causeOf_badP_eq_false_iff : causeOf .badP i s = false ↔ (readsP i = true → 2 ≤ s.exponent) := by
  simp [causeOf, Nat.lt_iff_add_one_le]

/-- Without an error P is one that a command which reads it accepts. -/
theorem exponent_of_noError (hP : readsP i = true) (h : reportedError i s = none) : 2 ≤ s.exponent :=
  causeOf_badP_eq_false_iff.1 (reportedError_eq_none_iff.1 h .badP) hP

/-- Without an error region A is one that a command which uses it accepts. -/
theorem inPlaceReady_of_noError (hA : usesA i = true) (h : reportedError i s = none) : s.inPlaceReady := by
  have causes := reportedError_eq_none_iff.1 h
  obtain ⟨length, -⟩ := causeOf_length_eq_false_iff.1 (causes .length)
  obtain ⟨range, -⟩ := causeOf_range_eq_false_iff.1 (causes .range)
  exact ⟨length hA, range hA⟩

/-- Without an error region C is one that a command which writes it accepts. -/
theorem destinationReady_of_noError (hC : usesC i = true) (h : reportedError i s = none) :
    s.destinationReady (neededLimbs i s) := by
  have causes := reportedError_eq_none_iff.1 h
  obtain ⟨-, length⟩ := causeOf_length_eq_false_iff.1 (causes .length)
  obtain ⟨-, range⟩ := causeOf_range_eq_false_iff.1 (causes .range)
  obtain ⟨nonempty, room⟩ := length hC
  exact ⟨nonempty, room, range hC⟩

/-- Without an error the regions of a command which uses both are disjoint, too. -/
theorem sourceDestinationReady_of_noError (hA : usesA i = true) (hC : usesC i = true) (h : reportedError i s = none) :
    s.sourceDestinationReady (neededLimbs i s) := by
  have apart := causeOf_overlap_eq_false_iff.1 (reportedError_eq_none_iff.1 h .overlap) hA hC
  exact ⟨inPlaceReady_of_noError hA h, destinationReady_of_noError hC h, by omega⟩

end

/-- The checks of SQR, RED and RPASS pass on regions they accept (60_exceptions.md R255 to R257). -/
theorem State.sourceDestinationReady.noError {s : State} {need : Nat} (h : s.sourceDestinationReady need) :
    s.sourceDestinationError need = none := by
  obtain ⟨⟨hA, rangeA⟩, ⟨hC, len, rangeC⟩, disjoint⟩ := h
  exact (s.sourceDestinationError_none_iff need).2 ⟨hA, hC, len, rangeA, rangeC, disjoint⟩

/-! ### Each command on regions that it accepts -/

section
variable {s : State}

theorem exec_sqr_of_ready (h : s.sourceDestinationReady (2 * s.regionA.len)) :
    exec .sqr s = .next (s.writeResult (s.regionVal s.regionA * s.regionVal s.regionA)) := by
  rw [exec, execSqr, h.noError, State.guarded]

theorem exec_red_of_ready (hp : 2 ≤ s.exponent) (h : s.sourceDestinationReady (mpn s.cfg s.exponent)) :
    exec .red s = .next ((s.setPasses (reduce s.exponent (s.regionVal s.regionA)).2).writeResult
      (reduce s.exponent (s.regionVal s.regionA)).1) := by
  rw [exec, execRed, orElse_none_iff.2 ⟨s.exponentError_none_iff.2 hp, h.noError⟩, State.guarded]

theorem exec_rpass_of_ready (hp : 2 ≤ s.exponent) (h : s.sourceDestinationReady s.regionA.len) :
    exec .rpass s = .next ((s.setPasses 1).writeResult (foldPass s.exponent (s.regionVal s.regionA))) := by
  rw [exec, execRpass, orElse_none_iff.2 ⟨s.exponentError_none_iff.2 hp, h.noError⟩, State.guarded]

theorem exec_mkmp_of_ready (hp : 2 ≤ s.exponent) (h : s.destinationReady (mpn s.cfg s.exponent)) :
    exec .mkmp s = .next (s.writeResult (mpValue s.exponent)) := by
  rw [exec, execMkmp, orElse_none_iff.2 ⟨s.exponentError_none_iff.2 hp, (s.destinationError_none_iff _).2 h⟩,
    State.guarded]

theorem exec_clr_of_ready (h : s.destinationReady 0) : exec .clr s = .next (s.writeResult 0) := by
  rw [exec, execClr, (s.destinationError_none_iff 0).2 h, State.guarded]

end

end Sys2Proof.Machine
end

section
/-! The naive squarer (42_squarer.md R180 to R182): the square fits region C, and the schoolbook double loop computes it. -/

namespace Sys2Proof.Machine

/-! ### SQR -/

/-- The square of a number of `n` limbs has at most `2 * n`. -/
theorem mul_self_lt_two_pow {n w v : Nat} (hv : v < 2 ^ (n * w)) : v * v < 2 ^ (2 * n * w) := by
  rw [Nat.mul_assoc, Nat.two_mul, pow_add]
  exact Nat.mul_lt_mul'' hv hv

/-- Settles O26: `exec_sqr_of_ready`, what `State.writeResult` leaves, and the bound of `mul_self_lt_two_pow`. -/
theorem sqrResult : Obligations.SqrResult := by
  intro s ready
  have ⟨_, ⟨_, room, _⟩, disjoint⟩ := ready
  have square := mul_self_lt_two_pow (s.regionVal_lt s.regionA)
  have fits := square.trans_le (Nat.pow_le_pow_right (by decide) (Nat.mul_le_mul_right s.cfg.W room))
  obtain ⟨c, z⟩ := s.writeResult_flags (v := s.regionVal s.regionA * s.regionVal s.regionA)
  exact ⟨_, exec_sqr_of_ready ready, (s.regionVal_writeResult fits).trans (Nat.pow_two _).symm,
    fun k hn hk => s.limb_writeResult_eq_zero square hn hk, s.regionVal_writeResult_of_disjoint disjoint, c,
    z.trans mul_self_eq_zero, s.writeResult_completedFrom, s.writeResult_sameButRegion⟩

/-! ### The schoolbook double loop -/

/-- The limb of a sum, and the carry into the limbs above it. -/
theorem add_mod_div_split (b v c d : Nat) (hb : 0 < b) :
    (v % b + c) % b = (v + (c + b * d)) % b ∧ v / b + (d + (v % b + c) / b) = (v + (c + b * d)) / b := by
  have regroup : v + (c + b * d) = v % b + c + b * (v / b + d) := by
    linear_combination -Nat.mod_add_div v b
  rw [regroup, Nat.add_mul_mod_self_left, Nat.add_mul_div_left _ _ hb]
  exact ⟨rfl, by ring⟩

/-- The ripple adds its carry (42_squarer.md R182). -/
theorem rippleAdd_splitLimbs (w n v c : Nat) : rippleAdd w (splitLimbs w n v) c = splitLimbs w n (v + c) := by
  induction n generalizing v c with
  | zero => rfl
  | succ n ih =>
    rw [splitLimbs, rippleAdd]
    split
    next idle => rw [idle, Nat.add_zero v, splitLimbs]
    next =>
      obtain ⟨digit, carry⟩ := add_mod_div_split (2 ^ w) v c 0 (Nat.two_pow_pos w)
      simp only [Nat.mul_zero, Nat.add_zero, Nat.zero_add] at digit carry
      rw [ih, digit, carry, splitLimbs]

/-- Adding a pair at limb `k` adds it with the weight of that limb; what goes past the top limb is lost. -/
theorem addPairAt_splitLimbs (w n v k lo hi : Nat) :
    addPairAt w (splitLimbs w n v) k lo hi = splitLimbs w n (v + 2 ^ (k * w) * (lo + 2 ^ w * hi)) := by
  induction n generalizing v k with
  | zero => rfl
  | succ n ih =>
    cases k with
    | zero =>
      obtain ⟨digit, carry⟩ := add_mod_div_split (2 ^ w) v lo hi (Nat.two_pow_pos w)
      rw [splitLimbs, addPairAt, rippleAdd_splitLimbs, digit, carry, Nat.zero_mul, pow_zero, Nat.one_mul, splitLimbs]
    | succ k =>
      have weight : 2 ^ ((k + 1) * w) = 2 ^ w * 2 ^ (k * w) := by rw [Nat.succ_mul, Nat.add_comm, pow_add]
      rw [splitLimbs, addPairAt, ih, splitLimbs, weight, Nat.mul_assoc, Nat.add_mul_mod_self_left,
        Nat.add_mul_div_left _ _ (Nat.two_pow_pos w)]

/-- The product of limbs `i` and `j` with the weight of limb `i + j`: what one round of the double loop adds. -/
def limbProduct (w : Nat) (a : List Nat) (ij : Nat × Nat) : Nat :=
  2 ^ ((ij.1 + ij.2) * w) * (a.getD ij.1 0 * a.getD ij.2 0)

/-- The double loop adds up the products of its pairs. -/
theorem foldl_addPairAt_splitLimbs (w n v : Nat) (a : List Nat) (pairs : List (Nat × Nat)) :
    pairs.foldl (fun acc ij => addPairAt w acc (ij.1 + ij.2) (a.getD ij.1 0 * a.getD ij.2 0 % 2 ^ w)
        (a.getD ij.1 0 * a.getD ij.2 0 / 2 ^ w)) (splitLimbs w n v)
      = splitLimbs w n (v + (pairs.map (limbProduct w a)).sum) := by
  induction pairs generalizing v with
  | nil => rfl
  | cons ij pairs ih =>
    rw [List.foldl_cons, addPairAt_splitLimbs, Nat.mod_add_div, ih, List.map_cons, List.sum_cons, Nat.add_assoc, limbProduct]

/-- A list of limbs holds the sum of its limbs with their weights (00_scope.md R9). -/
theorem limbsVal_eq_sum (w : Nat) (a : List Nat) :
    limbsVal w a = ((List.range a.length).map fun i => a.getD i 0 * 2 ^ (i * w)).sum := by
  induction a with
  | nil => rfl
  | cons x xs ih =>
    have shift (i : Nat) : 2 ^ w * (xs.getD i 0 * 2 ^ (i * w)) = (x :: xs).getD (i + 1) 0 * 2 ^ ((i + 1) * w) := by
      rw [List.getD_cons_succ, Nat.succ_mul, pow_add]
      ring
    simp only [limbsVal, ih, ← List.sum_map_mul_left, shift, List.length_cons, List.range_succ_eq_map, List.map_cons,
      List.map_map, List.sum_cons]
    simp [Function.comp_def]

/-- The products of all pairs of limbs add up to the square. -/
theorem sum_limbProduct (w : Nat) (a : List Nat) :
    (((List.range a.length).flatMap fun i => (List.range a.length).map fun j => (i, j)).map (limbProduct w a)).sum
      = limbsVal w a * limbsVal w a := by
  have term (i j : Nat) : limbProduct w a (i, j) = a.getD i 0 * 2 ^ (i * w) * (a.getD j 0 * 2 ^ (j * w)) := by
    rw [limbProduct, Nat.add_mul, pow_add]
    ring
  simp only [List.flatMap_def, List.map_flatten, List.sum_flatten, List.map_map, Function.comp_def, term,
    List.sum_map_mul_left, List.sum_map_mul_right, limbsVal_eq_sum]

/-- The schoolbook algorithm yields the limbs of the square (42_squarer.md R182). -/
theorem schoolbook_eq_splitLimbs (w : Nat) (a : List Nat) :
    schoolbook w a = splitLimbs w (2 * a.length) (limbsVal w a * limbsVal w a) := by
  rw [schoolbook, ← splitLimbs_zero w, foldl_addPairAt_splitLimbs, sum_limbProduct, Nat.zero_add]

/-- Settles O27: both are the low limbs of the square of region A's value. -/
theorem schoolbookYieldsSqr : Obligations.SchoolbookYieldsSqr := by
  intro s ready
  have ⟨_, ⟨_, room, _⟩, _⟩ := ready
  refine ⟨_, exec_sqr_of_ready ready, ?_⟩
  rw [s.limbs_writeResult room, schoolbook_eq_splitLimbs, State.limbs_length, State.regionVal_eq_limbsVal]

end Sys2Proof.Machine
end

section
/-! Noninterference of the commands that write region C (42_squarer.md R180, 43_reducer.md R204, R206, R208,
44_housekeeping.md R242): what the region held before never shows. -/

namespace Sys2Proof.Machine

/-- The value a command takes from the limb memory. -/
def State.sourceVal (s : State) (i : Instr) : Nat := if usesA i then s.regionVal s.regionA else 0

/-- The value a command takes depends on the limbs of region A alone, and on them only if the command reads them. -/
theorem State.sourceVal_congr {i : Instr} {s : State} {m : Memory}
    (limbs : usesA i = true → State.limbs { s with mem := m } s.regionA = s.limbs s.regionA) :
    State.sourceVal { s with mem := m } i = s.sourceVal i := by
  unfold State.sourceVal
  split
  next hA => exact State.AgreeOn.regionVal ⟨rfl, limbs hA⟩
  next => rfl

/-- What a command that writes region C computes, when it reports no error, depends on P and the value of region A alone:
the value for region C, and what PASSES becomes of what it was. -/
theorem exec_usesC_eq {i : Instr} (hC : usesC i = true) :
    ∃ (value : Nat → Nat → Nat) (count : Nat → Nat → BitVec 32 → BitVec 32),
      ∀ s : State, reportedError i s = none → exec i s =
        .next (State.writeResult { s with passes := count s.exponent (s.sourceVal i) s.passes }
          (value s.exponent (s.sourceVal i))) := by
  cases i with
  | nop | kadd | ksub | kmul | kodd | addl | subl => exact absurd hC Bool.false_ne_true
  | sqr =>
    exact ⟨fun _ v => v * v, fun _ _ n => n, fun s h => exec_sqr_of_ready (sourceDestinationReady_of_noError rfl rfl h)⟩
  | red =>
    exact ⟨fun p v => (reduce p v).1, fun p v _ => BitVec.ofNat 32 (reduce p v).2,
      fun s h => exec_red_of_ready (exponent_of_noError rfl h) (sourceDestinationReady_of_noError rfl rfl h)⟩
  | rpass =>
    exact ⟨foldPass, fun _ _ _ => 1,
      fun s h => exec_rpass_of_ready (exponent_of_noError rfl h) (sourceDestinationReady_of_noError rfl rfl h)⟩
  | mkmp =>
    exact ⟨fun p _ => mpValue p, fun _ _ n => n,
      fun s h => exec_mkmp_of_ready (exponent_of_noError rfl h) (destinationReady_of_noError rfl h)⟩
  | clr => exact ⟨fun _ _ => 0, fun _ _ n => n, fun s h => exec_clr_of_ready (destinationReady_of_noError rfl h)⟩

/-- A command that writes region C reports an error by the registers alone, whatever the limb memory holds. -/
theorem reportedError_of_usesC {i : Instr} (hC : usesC i = true) (s : State) (m : Memory) :
    reportedError i { s with mem := m } = reportedError i s := by
  cases i with
  | nop | kadd | ksub | kmul | kodd | addl | subl => exact absurd hC Bool.false_ne_true
  | sqr | red | rpass | mkmp | clr => rfl

/-- One result leaves the same limbs of region C and the same fields, whatever the memory held. -/
theorem State.writeResult_agreeOn (s : State) (m : Memory) (n : BitVec 32) (v : Nat) :
    (State.writeResult { s with passes := n } v).AgreeOn s.regionC
      (State.writeResult { s with mem := m, passes := n } v) where
  fields := rfl
  limbs := (State.limbs_writeResult { s with mem := m, passes := n } le_rfl).trans
    (State.limbs_writeResult { s with passes := n } le_rfl).symm

/-- Settles O28: the two states report the same (`reportedError_of_usesC`) and compute one result (`exec_usesC_eq`), and
every limb of region C is written with it. -/
theorem staleDestinationNeverLeaks : Obligations.StaleDestinationNeverLeaks := by
  intro i s s' hC noError fields source
  obtain ⟨m, rfl⟩ : ∃ m, s' = { s with mem := m } := ⟨_, fields⟩
  obtain ⟨value, count, run⟩ := exec_usesC_eq hC
  have run' := run { s with mem := m } ((reportedError_of_usesC hC s m).trans noError)
  rw [State.sourceVal_congr source] at run'
  obtain ⟨fields, limbs⟩ :=
    s.writeResult_agreeOn m (count s.exponent (s.sourceVal i) s.passes) (value s.exponent (s.sourceVal i))
  exact ⟨_, _, run s noError, run', fields, limbs⟩

end Sys2Proof.Machine
end

section
/-! The fold pass and RED's loop (43_reducer.md R200 to R203): what one pass does to a value, and how many passes
the loop needs. -/

namespace Sys2Proof.Machine

/-! ### One pass -/

/-- A pass gives the sum of the low p bits and of the rest, unless that sum is the modulus itself, which collapses to 0
(43_reducer.md R200). -/
theorem foldPass_cases (p v : Nat) :
    (v % 2 ^ p + v / 2 ^ p = 2 ^ p - 1 ∧ foldPass p v = 0) ∨
    (v % 2 ^ p + v / 2 ^ p ≠ 2 ^ p - 1 ∧ foldPass p v = v % 2 ^ p + v / 2 ^ p) := by
  rw [foldPass, Nat.shiftRight_eq_div_pow]
  split
  next collapse => exact .inl ⟨collapse, rfl⟩
  next sum => exact .inr ⟨sum, rfl⟩

/-- The identity behind the pass (43_reducer.md R202(a)): shifting by p bits takes away a multiple of the modulus. -/
theorem fold_add_multiple (p v : Nat) : v % 2 ^ p + v / 2 ^ p + v / 2 ^ p * (2 ^ p - 1) = v := by
  calc v % 2 ^ p + v / 2 ^ p + v / 2 ^ p * (2 ^ p - 1)
      = v % 2 ^ p + v / 2 ^ p * (2 ^ p - 1 + 1) := by rw [Nat.mul_add_one]; omega
    _ = v := by rw [Nat.sub_add_cancel Nat.one_le_two_pow, Nat.mod_add_div']

theorem foldPass_mod (p v : Nat) : foldPass p v % (2 ^ p - 1) = v % (2 ^ p - 1) := by
  have residue : (v % 2 ^ p + v / 2 ^ p) % (2 ^ p - 1) = v % (2 ^ p - 1) := by
    conv_rhs => rw [← fold_add_multiple p v, Nat.add_mul_mod_self_right]
  rcases foldPass_cases p v with ⟨collapse, h⟩ | ⟨_, h⟩ <;> rw [h]
  · rw [← residue, collapse, Nat.mod_self, Nat.zero_mod]
  · exact residue

theorem foldPass_le (p v : Nat) : foldPass p v ≤ v := by
  rcases foldPass_cases p v with ⟨_, h⟩ | ⟨_, h⟩ <;> rw [h]
  · exact v.zero_le
  · exact Nat.le.intro (fold_add_multiple p v)

theorem four_le_two_pow {p : Nat} (hp : 2 ≤ p) : 4 ≤ 2 ^ p := Nat.pow_le_pow_right (n := 2) (by decide) hp

/-- From the modulus on, a pass lowers the value: it collapses, or the high part takes away a positive multiple of the
modulus. -/
theorem foldPass_lt {p v : Nat} (hp : 2 ≤ p) (hv : 2 ^ p - 1 ≤ v) : foldPass p v < v := by
  have four := four_le_two_pow hp
  have identity := fold_add_multiple p v
  rcases foldPass_cases p v with ⟨_, h⟩ | ⟨stays, h⟩ <;> rw [h]
  · omega
  · have high : 0 < v / 2 ^ p := by
      refine Nat.pos_of_ne_zero fun empty => stays ?_
      have low := Nat.mod_lt v (Nat.two_pow_pos p)
      rw [empty, Nat.zero_mul] at identity
      omega
    have multiple : 0 < v / 2 ^ p * (2 ^ p - 1) := Nat.mul_pos high (by omega)
    omega

theorem foldPass_of_lt {p v : Nat} (hv : v < 2 ^ p - 1) : foldPass p v = v := by
  have small : v < 2 ^ p := by omega
  rcases foldPass_cases p v with ⟨collapse, _⟩ | ⟨_, h⟩
  · rw [Nat.mod_eq_of_lt small, Nat.div_eq_of_lt small] at collapse
    omega
  · rw [h, Nat.mod_eq_of_lt small, Nat.div_eq_of_lt small, Nat.add_zero]

theorem foldPass_modulus (p : Nat) : foldPass p (2 ^ p - 1) = 0 := by
  have small : 2 ^ p - 1 < 2 ^ p := Nat.sub_lt (Nat.two_pow_pos p) Nat.one_pos
  rcases foldPass_cases p (2 ^ p - 1) with ⟨_, h⟩ | ⟨stays, _⟩
  · exact h
  · rw [Nat.mod_eq_of_lt small, Nat.div_eq_of_lt small, Nat.add_zero] at stays
    exact absurd rfl stays

/-- Settles O29: (a) is `fold_add_multiple`, and (b) and (c) split on whether the value is below the modulus. -/
theorem foldPassProperties : Obligations.FoldPassProperties := by
  intro p v hp
  refine ⟨foldPass_mod p v, ?_, foldPass_le p v, foldPass_lt hp, ⟨fun fixed => ?_, foldPass_of_lt⟩, foldPass_modulus p⟩
  · rw [Nat.shiftRight_eq_div_pow]
    exact Nat.eq_sub_of_add_eq (fold_add_multiple p v)
  · exact Nat.lt_of_not_le fun hv => (foldPass_lt hp hv).ne fixed

/-! ### RED's loop -/

/-- The loop, with fuel enough, applies passes to values that are not below the modulus until one is. -/
theorem foldLoop_spec {p : Nat} (hp : 2 ≤ p) {fuel v : Nat} (hf : v ≤ fuel) (k : Nat) :
    ∃ n, foldLoop p fuel v k = ((foldPass p)^[n] v, k + n) ∧ (∀ j < n, 2 ^ p - 1 ≤ (foldPass p)^[j] v)
      ∧ (foldPass p)^[n] v < 2 ^ p - 1 := by
  have four := four_le_two_pow hp
  induction fuel generalizing v k with
  | zero => exact ⟨0, rfl, by simp, show v < 2 ^ p - 1 by omega⟩
  | succ fuel ih =>
    rw [foldLoop]
    split
    next large =>
      have lower := foldPass_lt hp large
      obtain ⟨n, loop, before, after⟩ := ih (v := foldPass p v) (by omega) (k + 1)
      refine ⟨n + 1, by rw [loop, Function.iterate_succ_apply, Nat.add_right_comm, Nat.add_assoc], fun j hj => ?_, after⟩
      cases j with
      | zero => exact large
      | succ j => exact before j (by omega)
    next small => exact ⟨0, rfl, by simp, Nat.lt_of_not_le small⟩

section
variable {p : Nat} (hp : 2 ≤ p) (v : Nat)
include hp

/-- RED's value is that many passes of the operand, each of a value not below the modulus, and is below it. -/
theorem reduce_spec :
    (reduce p v).1 = (foldPass p)^[(reduce p v).2] v
      ∧ (∀ j < (reduce p v).2, 2 ^ p - 1 ≤ (foldPass p)^[j] v) ∧ (reduce p v).1 < 2 ^ p - 1 := by
  obtain ⟨n, loop, before, after⟩ := foldLoop_spec hp le_rfl 0 (v := v)
  rw [Nat.zero_add] at loop
  rw [reduce, loop]
  exact ⟨rfl, before, after⟩

/-- RED's loop stops at the first iterate below the modulus. -/
theorem reduce_count_le {n : Nat} (h : (foldPass p)^[n] v < 2 ^ p - 1) : (reduce p v).2 ≤ n := by
  obtain ⟨_, before, _⟩ := reduce_spec hp v
  exact Nat.le_of_not_lt fun hn => (before n hn).not_gt h

/-- RED's value is the residue (43_reducer.md R209(a)). -/
theorem reduce_fst : (reduce p v).1 = v % (2 ^ p - 1) := by
  obtain ⟨value, _, below⟩ := reduce_spec hp v
  have residue (n : Nat) : (foldPass p)^[n] v % (2 ^ p - 1) = v % (2 ^ p - 1) := by
    induction n with
    | zero => rfl
    | succ n ih => rw [Function.iterate_succ_apply', foldPass_mod, ih]
  rw [← residue, ← value, Nat.mod_eq_of_lt below]

end

/-! ### The bound on the passes -/

/-- A pass takes p - 1 bits off a value of up to p + m bits, where m is at least p (43_reducer.md R203). -/
theorem foldPass_add_two_le {p m v : Nat} (hm : p ≤ m) (hv : v < 2 ^ (p + m)) : foldPass p v + 2 ≤ 2 ^ (m + 1) := by
  have low := Nat.mod_lt v (Nat.two_pow_pos p)
  have high : v / 2 ^ p < 2 ^ m := Nat.div_lt_of_lt_mul (by rwa [← pow_add])
  have weight : 2 ^ p ≤ 2 ^ m := Nat.pow_le_pow_right (by decide) hm
  rw [Nat.pow_succ]
  rcases foldPass_cases p v with ⟨_, h⟩ | ⟨_, h⟩ <;> omega

/-- Two passes finish a value below 2^(2p): the first leaves at most one bit above the low p, and the second adds it to
them, which does not exceed the modulus (43_reducer.md R203). -/
theorem foldPass_foldPass_lt {p v : Nat} (hp : 2 ≤ p) (hv : v < 2 ^ (2 * p)) :
    foldPass p (foldPass p v) < 2 ^ p - 1 := by
  have four := four_le_two_pow hp
  have first := foldPass_add_two_le le_rfl (Nat.two_mul p ▸ hv)
  have low := Nat.mod_lt (foldPass p v) (Nat.two_pow_pos p)
  have parts := Nat.mod_add_div (foldPass p v) (2 ^ p)
  rw [Nat.pow_succ] at first
  have high : foldPass p v / 2 ^ p < 2 := Nat.div_lt_of_lt_mul (by omega)
  rcases foldPass_cases p (foldPass p v) with ⟨_, h⟩ | ⟨stays, h⟩ <;> rw [h]
  · omega
  · interval_cases foldPass p v / 2 ^ p <;> omega

/-- Every p - 1 bits from 2p on cost one pass more (43_reducer.md R203). -/
theorem iterate_foldPass_lt {p j v : Nat} (hp : 2 ≤ p) (hv : v < 2 ^ (2 * p + j * (p - 1))) :
    (foldPass p)^[2 + j] v < 2 ^ p - 1 := by
  induction j generalizing v with
  | zero => exact foldPass_foldPass_lt hp (by simpa using hv)
  | succ j ih =>
    have bits : 2 * p + (j + 1) * (p - 1) = p + (p + (j + 1) * (p - 1)) := by omega
    have left : p + (j + 1) * (p - 1) + 1 = 2 * p + j * (p - 1) := by rw [Nat.succ_mul]; omega
    have pass := foldPass_add_two_le (Nat.le_add_right ..) (bits ▸ hv)
    rw [left] at pass
    exact ih (by omega)

/-- A value below 2^(2p) needs at most two passes (43_reducer.md R203, R209(e)). -/
theorem reduce_count_le_two {p v : Nat} (hp : 2 ≤ p) (hv : v < 2 ^ (2 * p)) : (reduce p v).2 ≤ 2 :=
  reduce_count_le hp v (foldPass_foldPass_lt hp hv)

/-- The bound on RED's passes (43_reducer.md R203). -/
theorem reduce_count_bound {p v l : Nat} (hp : 2 ≤ p) (hv : v < 2 ^ l) :
    (reduce p v).2 ≤ 2 + (if 2 * p ≤ l then (l - 2 * p) / (p - 1) + 1 else 0) := by
  have grow {n : Nat} (hn : l ≤ n) : v < 2 ^ n := hv.trans_le (Nat.pow_le_pow_right (by decide) hn)
  split
  next long =>
    have covered := Nat.lt_mul_div_succ (l - 2 * p) (show 0 < p - 1 by omega)
    generalize (l - 2 * p) / (p - 1) + 1 = j at covered ⊢
    rw [Nat.mul_comm (p - 1)] at covered
    exact reduce_count_le hp v (iterate_foldPass_lt hp (grow (by omega)))
  next short => exact reduce_count_le_two hp (grow (by omega))

/-- Settles O30: what the loop does is `reduce_spec`, and the two bounds come from the first iterate below the modulus. -/
theorem foldCountBound : Obligations.FoldCountBound := by
  intro p v l hp _ hv
  obtain ⟨value, before, below⟩ := reduce_spec hp v
  exact ⟨before, value.symm, below, reduce_count_bound hp hv, reduce_count_le_two hp⟩

/-- Settles O35, by evaluation: the loop stops after six of its passes, whatever fuel is left. -/
theorem fourPassesFallShort : Obligations.FourPassesFallShort :=
  ⟨by decide, by decide, by decide, by decide, by decide⟩

end Sys2Proof.Machine
end

section
/-! The limb form of a pass (43_reducer.md R201): its masked low limbs and its windows are the limbs of the low p bits and of
the rest, and its test for all ones compares the sum with the modulus limb by limb. -/

namespace Sys2Proof.Machine

/-! ### The limbs of a value -/

/-- The number that the low limbs of a value hold is its low bits. -/
theorem limbsVal_splitLimbs (w n v : Nat) : limbsVal w (splitLimbs w n v) = v % 2 ^ (n * w) := by
  induction n generalizing v with
  | zero => rw [splitLimbs, limbsVal, Nat.zero_mul, pow_zero, Nat.mod_one]
  | succ n ih => rw [splitLimbs, limbsVal, ih, Nat.succ_mul, Nat.add_comm (n * w), pow_add, Nat.mod_mul]

/-- Limb `i` of the value that a list of limbs holds; past the list it is 0 on both sides. -/
theorem getD_eq_limb {w : Nat} {a : List Nat} (ha : LimbsFit w a) (i : Nat) :
    a.getD i 0 = limbsVal w a / 2 ^ (i * w) % 2 ^ w := by
  induction a generalizing i with
  | nil => simp [limbsVal]
  | cons x xs ih =>
    have hx := ha x List.mem_cons_self
    cases i with
    | zero => rw [List.getD_cons_zero, limbsVal, Nat.zero_mul, pow_zero, Nat.div_one, Nat.add_mul_mod_self_left,
        Nat.mod_eq_of_lt hx]
    | succ i => rw [List.getD_cons_succ, ih ha.tail, limbsVal, Nat.succ_mul, Nat.add_comm (i * w), pow_add,
        ← Nat.div_div_eq_div_mul, Nat.add_mul_div_left _ _ (Nat.two_pow_pos w), Nat.div_eq_of_lt hx, Nat.zero_add]

/-- The low p bits, seen from bit `k` on. -/
theorem mod_two_pow_div (v p k : Nat) : v % 2 ^ p / 2 ^ k = v / 2 ^ k % 2 ^ (p - k) := by
  refine Nat.eq_of_testBit_eq fun i => ?_
  simp only [Nat.testBit_div_two_pow, Nat.testBit_mod_two_pow, Nat.lt_sub_iff_add_lt]

/-- Two cuts are the shorter one. -/
theorem mod_two_pow_mod (v m n : Nat) : v % 2 ^ m % 2 ^ n = v % 2 ^ min n m := by
  refine Nat.eq_of_testBit_eq fun i => ?_
  simp only [Nat.testBit_mod_two_pow, Nat.lt_min, Bool.decide_and, Bool.and_assoc]

/-- The limbs from `i + 1` on are those from `i` on without the first. -/
theorem div_limb_succ (w i v : Nat) : v / 2 ^ ((i + 1) * w) = v / 2 ^ (i * w) / 2 ^ w := by
  rw [Nat.div_div_eq_div_mul, ← pow_add, Nat.succ_mul]

/-! ### The limbs of the modulus -/

/-- The bits of limb `i` below bit p: all of them below the modulus's top limb, those of LMASK in it, none above it. -/
theorem limb_bits_cases (c : Config) {p : Nat} (hp : 1 ≤ p) (i : Nat) :
    (i + 1 < mpn c p ∧ min c.W (p - i * c.W) = c.W) ∨
    (i + 1 = mpn c p ∧ lmask c p = 2 ^ min c.W (p - i * c.W) - 1) ∨
    (mpn c p ≤ i ∧ min c.W (p - i * c.W) = 0) := by
  obtain ⟨covers, needs⟩ := mpn_bounds c hp
  have weight {j k : Nat} (h : j ≤ k) : j * c.W ≤ k * c.W := Nat.mul_le_mul_right _ h
  rcases Nat.lt_trichotomy (i + 1) (mpn c p) with below | top | above
  · have inside := weight (Nat.le_sub_one_of_lt below)
    rw [Nat.succ_mul] at inside
    exact .inl ⟨below, by omega⟩
  · rw [← top, Nat.succ_mul] at covers
    rw [lmask_eq_two_pow_sub c hp, ← top, Nat.add_sub_cancel, Nat.min_eq_right (by omega)]
    exact .inr (.inl ⟨rfl, rfl⟩)
  · have outside := weight (Nat.le_of_lt_succ above)
    exact .inr (.inr ⟨by omega, by omega⟩)

/-- The modulus, and so every value up to it, fits MPN limbs. -/
theorem modulus_fits (c : Config) {p : Nat} (hp : 1 ≤ p) : 2 ^ p - 1 < 2 ^ (mpn c p * c.W) :=
  (Nat.sub_lt (Nat.two_pow_pos p) Nat.one_pos).trans_le (Nat.pow_le_pow_right (by decide) (mpn_bounds c hp).1)

/-! ### The two summands -/

section
variable {c : Config} {p : Nat} {a : List Nat} (ha : LimbsFit c.W a) (i : Nat)
include ha

/-- The masked low limbs are the limbs of the low p bits (43_reducer.md R201). -/
theorem foldLowLimb_eq (hp : 1 ≤ p) :
    foldLowLimb c p a i = limbsVal c.W a % 2 ^ p / 2 ^ (i * c.W) % 2 ^ c.W := by
  rw [mod_two_pow_div, mod_two_pow_mod, foldLowLimb, getD_eq_limb ha]
  rcases limb_bits_cases c hp i with ⟨below, full⟩ | ⟨top, mask⟩ | ⟨above, noBits⟩
  · rw [if_pos below, full]
  · rw [if_neg (by omega), if_pos top, mask, Nat.and_two_pow_sub_one_eq_mod, mod_two_pow_mod, Nat.min_right_comm,
      Nat.min_self]
  · rw [if_neg (by omega), if_neg (by omega), noBits, pow_zero, Nat.mod_one]

/-- The windows are the limbs of the rest (43_reducer.md R201, 40_limb_kernel.md R136). -/
theorem foldHighLimb_eq : foldHighLimb c p a i = limbsVal c.W a / 2 ^ p / 2 ^ (i * c.W) % 2 ^ c.W := by
  have offset := Nat.mod_lt p c.W_pos
  have bits : (i + p / c.W) * c.W + p % c.W = p + i * c.W := by
    rw [Nat.add_mul, Nat.add_assoc, Nat.div_add_mod' p, Nat.add_comm]
  have pair (u : Nat) : u / 2 ^ c.W % 2 ^ c.W * 2 ^ c.W + u % 2 ^ c.W = u % 2 ^ (c.W + c.W) := by
    rw [pow_add, Nat.mod_mul, Nat.mul_comm, Nat.add_comm]
  rw [foldHighLimb, getD_eq_limb ha, getD_eq_limb ha, oddWindow_eq _ (Nat.mod_lt _ (Nat.two_pow_pos _)) offset.le,
    div_limb_succ, pair, Nat.shiftRight_eq_div_pow, mod_two_pow_div, mod_two_pow_mod, Nat.min_eq_left (by omega),
    Nat.div_div_eq_div_mul, ← pow_add, bits, Nat.div_div_eq_div_mul, ← pow_add]

/-- The sum of R201 over `n` limbs from limb `i` on adds those limbs of the low p bits and of the rest. -/
theorem foldSum_eq (hp : 1 ≤ p) (n : Nat) :
    foldSum c p a i n = limbsVal c.W a % 2 ^ p / 2 ^ (i * c.W) % 2 ^ (n * c.W)
      + limbsVal c.W a / 2 ^ p / 2 ^ (i * c.W) % 2 ^ (n * c.W) := by
  induction n generalizing i with
  | zero => simp [foldSum, Nat.mod_one]
  | succ n ih =>
    have peel (u : Nat) : u / 2 ^ (i * c.W) % 2 ^ ((n + 1) * c.W)
        = u / 2 ^ (i * c.W) % 2 ^ c.W + 2 ^ c.W * (u / 2 ^ ((i + 1) * c.W) % 2 ^ (n * c.W)) := by
      rw [div_limb_succ, Nat.succ_mul, Nat.add_comm (n * c.W), pow_add, Nat.mod_mul]
    rw [foldSum, ih, foldLowLimb_eq ha i hp, foldHighLimb_eq ha, peel, peel]
    ring

end

/-! ### The test for all ones -/

/-- The limbs that the test compares with are those of the modulus. -/
theorem modulus_limb {c : Config} {p i : Nat} (hp : 1 ≤ p) (hi : i < mpn c p) :
    (2 ^ p - 1) / 2 ^ (i * c.W) % 2 ^ c.W = if i + 1 < mpn c p then 2 ^ c.W - 1 else lmask c p := by
  have cut (m n : Nat) : (2 ^ m - 1) % 2 ^ n = 2 ^ min n m - 1 := by
    refine Nat.eq_of_testBit_eq fun j => ?_
    simp only [Nat.testBit_mod_two_pow, Nat.testBit_two_pow_sub_one, Nat.lt_min, Bool.decide_and]
  rw [two_pow_sub_one_div, cut]
  rcases limb_bits_cases c hp i with ⟨below, full⟩ | ⟨top, mask⟩ | ⟨above, _⟩
  · rw [if_pos below, full]
  · rw [if_neg (by omega), mask]
  · omega

/-- The test says whether its operand is the modulus (43_reducer.md R201). -/
theorem allOnes_iff {c : Config} {p r : Nat} (hp : 1 ≤ p) : allOnes c p r = true ↔ r = 2 ^ p - 1 := by
  have modulus := modulus_fits c hp
  simp only [allOnes, Bool.and_eq_true, List.all_eq_true, List.mem_range, beq_iff_eq, Nat.shiftRight_eq_div_pow,
    Nat.div_eq_zero_iff, (Nat.two_pow_pos _).ne', false_or]
  constructor
  · rintro ⟨limbs, small⟩
    have same : splitLimbs c.W (mpn c p) r = splitLimbs c.W (mpn c p) (2 ^ p - 1) := by
      rw [splitLimbs_eq_map, splitLimbs_eq_map]
      exact List.map_congr_left fun i hi =>
        (limbs i (List.mem_range.1 hi)).trans (modulus_limb hp (List.mem_range.1 hi)).symm
    have value := congrArg (limbsVal c.W) same
    rwa [limbsVal_splitLimbs, limbsVal_splitLimbs, Nat.mod_eq_of_lt small, Nat.mod_eq_of_lt modulus] at value
  · rintro rfl
    exact ⟨fun i hi => modulus_limb hp hi, modulus⟩

/-- Settles O31: the sum of R201 is that of the pass (`foldSum_eq`), and the two tests agree (`allOnes_iff`). -/
theorem limbPassIsFoldPass : Obligations.LimbPassIsFoldPass := by
  intro c p a hp ha
  have hp1 : 1 ≤ p := Nat.one_le_of_lt hp
  have fits := limbsVal_lt ha
  have sum : foldSum c p a 0 a.length = limbsVal c.W a % 2 ^ p + limbsVal c.W a >>> p := by
    rw [foldSum_eq ha 0 hp1, Nat.zero_mul, pow_zero, Nat.div_one, Nat.div_one, Nat.shiftRight_eq_div_pow,
      Nat.mod_eq_of_lt ((Nat.mod_le ..).trans_lt fits), Nat.mod_eq_of_lt ((Nat.div_le_self ..).trans_lt fits)]
  simp only [limbPass, foldPass, sum, allOnes_iff hp1]

end Sys2Proof.Machine
end

section
/-! The commands of the reducer (43_reducer.md R204 to R209): the end that RED and RPASS share, and what the three leave. -/

namespace Sys2Proof.Machine

/-! ### RED and RPASS -/

/-- The end of RED and RPASS with a value that fits the limbs they need: region C holds it, with zeros above those limbs, PASSES
the count, and nothing else differs but the flags, the protocol bits and the latch. -/
theorem State.setPasses_writeResult_spec {s : State} {need k v : Nat} (ready : s.sourceDestinationReady need)
    (fits : v < 2 ^ (need * s.cfg.W)) :
    ∃ t, (s.setPasses k).writeResult v = t ∧ t.regionVal s.regionC = v
      ∧ (∀ j, need ≤ j → j < s.regionC.len → t.limb (s.regionC.base + j) = 0)
      ∧ t.passes = BitVec.ofNat 32 k ∧ t.regionVal s.regionA = s.regionVal s.regionA
      ∧ t.status.c = false ∧ (t.status.z = true ↔ t.regionVal s.regionC = 0)
      ∧ t.completedFrom s ∧ t.sameButRegionAndPasses s s.regionC := by
  have ⟨_, ⟨_, room, _⟩, disjoint⟩ := ready
  have value : ((s.setPasses k).writeResult v).regionVal s.regionC = v :=
    (s.setPasses k).regionVal_writeResult
      (fits.trans_le (Nat.pow_le_pow_right (by decide) (Nat.mul_le_mul_right s.cfg.W room)))
  have source : ((s.setPasses k).writeResult v).regionVal s.regionA = s.regionVal s.regionA :=
    ((s.setPasses k).regionVal_writeResult_of_disjoint disjoint).trans (s.setPasses_memRead ..)
  obtain ⟨c, z⟩ := (s.setPasses k).writeResult_flags (v := v)
  obtain ⟨_, bytes⟩ := (s.setPasses k).writeResult_sameButRegion (v := v)
  exact ⟨_, rfl, value, fun j => (s.setPasses k).limb_writeResult_eq_zero fits, rfl, source, c, value.symm ▸ z,
    (s.setPasses k).writeResult_completedFrom, rfl, bytes⟩

/-- Settles O32: RED's value is the residue (`reduce_fst`), below the modulus, and so fits MPN limbs. -/
theorem redResult : Obligations.RedResult := by
  intro s hp ready
  obtain ⟨_, _, below⟩ := reduce_spec hp (s.regionVal s.regionA)
  have fits := below.trans (modulus_fits s.cfg (Nat.one_le_of_lt hp))
  obtain ⟨t, ht, value, rest⟩ := State.setPasses_writeResult_spec ready fits
    (k := (reduce s.exponent (s.regionVal s.regionA)).2)
  exact ⟨t, ht ▸ exec_red_of_ready hp ready, value.trans (reduce_fst hp _), value.trans_lt below, rest⟩

/-- In a build that the spec allows the pass count of a region fits the 32 bits of PASSES (43_reducer.md R203, 00_scope.md R5):
it exceeds the number of bits by three at most. -/
theorem reduce_count_lt {s : State} (build : s.cfg.wellFormed = true) {p : Nat} (hp : 2 ≤ p) {r : Region}
    (range : r.inRange s.cfg) : (reduce p (s.regionVal r)).2 < 2 ^ 32 := by
  have ⟨_, depth⟩ := of_decide_eq_true build
  have bits : r.len * s.cfg.W ≤ 1966080 * 64 := Nat.mul_le_mul (by omega) s.cfg.W_le
  have bound := reduce_count_bound hp (s.regionVal_lt r)
  have quotient := Nat.div_le_self (r.len * s.cfg.W - 2 * p) (p - 1)
  split at bound <;> omega

/-- Settles O33: `reduce_count_lt` for the 32 bits, and the loop's bounds for a value below the modulus (no pass) and below
2^(2p) (two). -/
theorem redPasses : Obligations.RedPasses := by
  intro s build hp ready
  have ⟨⟨_, range⟩, _⟩ := ready
  obtain ⟨t, ht, value, _, _, passes, _⟩ := redResult s hp ready
  have count : t.passes.toNat = (reduce s.exponent (s.regionVal s.regionA)).2 := by
    rw [passes, BitVec.toNat_ofNat, Nat.mod_eq_of_lt (reduce_count_lt build hp range)]
  refine ⟨t, ht, count, fun reduced => ⟨?_, ?_⟩, fun short => count.trans_le (reduce_count_le_two hp short)⟩
  · have noPass := reduce_count_le hp (n := 0) _ reduced
    exact BitVec.eq_of_toNat_eq (count.trans (Nat.le_zero.1 noPass))
  · rw [value, Nat.mod_eq_of_lt reduced]

/-- Settles O34: one pass does not raise the value (`foldPass_le`), so the result fits the limbs of region A. -/
theorem rpassResult : Obligations.RpassResult := by
  intro s hp ready
  have fits := (foldPass_le s.exponent (s.regionVal s.regionA)).trans_lt (s.regionVal_lt s.regionA)
  obtain ⟨t, ht, value, _, rest⟩ := State.setPasses_writeResult_spec ready fits (k := 1)
  refine ⟨t, ht ▸ exec_rpass_of_ready hp ready, value.trans ?_, rest⟩
  rw [foldPass, Nat.shiftRight_eq_div_pow]

/-! ### MKMP -/

/-- Settles O36: the modulus fits MPN limbs and is not 0. -/
theorem mkmpResult : Obligations.MkmpResult := by
  intro s hp ready
  have ⟨_, room, _⟩ := ready
  have fits := modulus_fits s.cfg (Nat.one_le_of_lt hp)
  have nonzero : mpValue s.exponent ≠ 0 := Nat.sub_ne_zero_of_lt (Nat.one_lt_two_pow (by omega))
  obtain ⟨c, z⟩ := s.writeResult_flags (v := mpValue s.exponent)
  refine ⟨_, exec_mkmp_of_ready hp ready, ?_, fun k => s.limb_writeResult_eq_zero fits, c, ?_,
    s.writeResult_completedFrom, s.writeResult_sameButRegion⟩
  · exact s.regionVal_writeResult
      (fits.trans_le (Nat.pow_le_pow_right (by decide) (Nat.mul_le_mul_right s.cfg.W room)))
  · exact Bool.eq_false_iff.2 fun zero => nonzero (z.1 zero)

end Sys2Proof.Machine
end

section
/-! The housekeeping commands (44_housekeeping.md R240, R242): NOP is completion alone, CLR writes the number 0 to region C. -/

namespace Sys2Proof.Machine

/-- NOP is completion without error and nothing besides (44_housekeeping.md R240, 60_exceptions.md R258). -/
theorem exec_nop (s : State) : exec .nop s = .next s.finish := rfl

/-- Settles O38: `exec_nop`, with what completion writes. -/
theorem nopResult : Obligations.NopResult := by
  intro s
  rw [exec_nop, State.finish]

/-- Settles O39: the number 0 needs no limbs, so every limb of region C lies above it, and Z says that it is 0. -/
theorem clrResult : Obligations.ClrResult := by
  intro s ready
  have fits : 0 < 2 ^ (0 * s.cfg.W) := Nat.two_pow_pos _
  obtain ⟨c, z⟩ := s.writeResult_flags (v := 0)
  exact ⟨_, exec_clr_of_ready ready, fun k hk => s.limb_writeResult_eq_zero fits k.zero_le hk, c, z.2 rfl,
    s.writeResult_completedFrom, s.writeResult_sameButRegion⟩

end Sys2Proof.Machine
end

section
/-! The errors of a decoded command (60_exceptions.md R251 to R260): the checks that each command makes are the causes of R253
to R260 in the order of R259, so the first failing check is the error reported. -/

namespace Sys2Proof.Machine

/-! ### The order of report -/

/-- An error, where its cause holds (60_exceptions.md R253 to R257, R260). -/
def causedError (e : ErrCode) (i : Instr) (s : State) : Option ErrCode := if causeOf e i s then some e else none

/-- The order of R259, as checks made one after the other. -/
theorem reportedError_eq_causedErrors (i : Instr) (s : State) :
    reportedError i s = (causedError .badOff i s <|> causedError .badP i s <|> causedError .length i s <|>
      causedError .range i s <|> causedError .overlap i s <|> causedError .capacity i s) := by
  have find_cons (e : ErrCode) (l : List ErrCode) :
      (e :: l).find? (fun e => causeOf e i s) = (causedError e i s <|> l.find? fun e => causeOf e i s) := by
    cases h : causeOf e i s <;> simp [causedError, h]
  have illegal : causedError .illegalCmd i s = none := rfl
  simp [reportedError, reportOrder, find_cons, illegal]

/-- Only an error whose cause holds is reported, and ILLEGAL_CMD has none for a decoded command. -/
theorem reportedError_ne_illegalCmd (i : Instr) (s : State) : reportedError i s ≠ some .illegalCmd := by
  intro h
  have cause := List.find?_some (p := fun e => causeOf e i s) h
  cases cause

section
variable {i : Instr} {s : State}

/-- The check of the commands that read P is BADP. -/
theorem exponentCheck_eq_causedError : (if readsP i then s.exponentError else none) = causedError .badP i s := by
  cases h : readsP i <;> simp [State.exponentError, causedError, causeOf, h]

/-- The checks of ADDL and SUBL are LENGTH and RANGE on region A. -/
theorem inPlaceError_eq_causedErrors (hA : usesA i = true) (hC : usesC i = false) :
    s.inPlaceError = (causedError .length i s <|> causedError .range i s) := by
  simp only [State.inPlaceError, causedError, causeOf, hA, hC, Bool.true_and, Bool.false_and, Bool.or_false,
    decide_eq_true_eq]
  split
  · rfl
  · split <;> simp <;> omega

/-- The checks of MKMP and CLR are LENGTH and RANGE on region C. -/
theorem destinationError_eq_causedErrors (hA : usesA i = false) (hC : usesC i = true) :
    s.destinationError (neededLimbs i s) = (causedError .length i s <|> causedError .range i s) := by
  simp only [State.destinationError, causedError, causeOf, hA, hC, Bool.true_and, Bool.false_and, Bool.false_or,
    Bool.or_eq_true, decide_eq_true_eq]
  split
  · rfl
  · split <;> simp <;> omega

/-- The checks of SQR, RED and RPASS are LENGTH, RANGE and OVERLAP on regions A and C. -/
theorem sourceDestinationError_eq_causedErrors (hA : usesA i = true) (hC : usesC i = true) :
    s.sourceDestinationError (neededLimbs i s) =
      (causedError .length i s <|> causedError .range i s <|> causedError .overlap i s) := by
  simp only [State.sourceDestinationError, causedError, causeOf, hA, hC, Bool.true_and, Bool.or_eq_true,
    decide_eq_true_eq]
  have outside : (s.cfg.depth < s.regionA.base + s.regionA.len ∨ s.cfg.depth < s.regionC.base + s.regionC.len) ↔
      ¬ (s.regionA.inRange s.cfg ∧ s.regionC.inRange s.cfg) := by
    omega
  simp only [outside]
  by_cases emptyA : s.regionA.len = 0
  · simp [emptyA]
  by_cases shortC : s.regionC.len = 0 ∨ s.regionC.len < neededLimbs i s
  · simp [emptyA, shortC]
  by_cases fits : s.regionA.inRange s.cfg ∧ s.regionC.inRange s.cfg <;> simp [emptyA, shortC, fits]

/-- BADOFF and CAPACITY have no cause for a command that writes region C (60_exceptions.md R253, R260). -/
theorem causedErrors_of_usesC (hC : usesC i = true) :
    causedError .badOff i s = none ∧ causedError .capacity i s = none := by
  cases i with
  | nop | kadd | ksub | kmul | kodd | addl | subl => exact absurd hC Bool.false_ne_true
  | sqr | red | rpass | mkmp | clr => exact ⟨rfl, rfl⟩

/-- What SQR, RED and RPASS report is what their checks answer. -/
theorem reportedError_of_usesA_usesC (hA : usesA i = true) (hC : usesC i = true) :
    reportedError i s =
      ((if readsP i then s.exponentError else none) <|> s.sourceDestinationError (neededLimbs i s)) := by
  obtain ⟨badOff, capacity⟩ := causedErrors_of_usesC (s := s) hC
  simp [reportedError_eq_causedErrors, exponentCheck_eq_causedError, sourceDestinationError_eq_causedErrors hA hC, badOff,
    capacity]

/-- What MKMP and CLR report is what their checks answer. -/
theorem reportedError_of_usesC_only (hA : usesA i = false) (hC : usesC i = true) :
    reportedError i s = ((if readsP i then s.exponentError else none) <|> s.destinationError (neededLimbs i s)) := by
  obtain ⟨badOff, capacity⟩ := causedErrors_of_usesC (s := s) hC
  have overlap : causedError .overlap i s = none := by simp [causedError, causeOf, hA]
  simp [reportedError_eq_causedErrors, exponentCheck_eq_causedError, destinationError_eq_causedErrors hA hC, badOff,
    overlap, capacity]

/-- What ADDL and SUBL report is what their checks answer, and then CAPACITY. -/
theorem reportedError_of_linear (hi : i = .addl ∨ i = .subl) :
    reportedError i s = (s.inPlaceError <|> causedError .capacity i s) := by
  have unused : causedError .badOff i s = none ∧ causedError .badP i s = none ∧ causedError .overlap i s = none := by
    rcases hi with rfl | rfl <;> exact ⟨rfl, rfl, rfl⟩
  have checks : s.inPlaceError = (causedError .length i s <|> causedError .range i s) := by
    rcases hi with rfl | rfl <;> exact inPlaceError_eq_causedErrors rfl rfl
  obtain ⟨badOff, badP, overlap⟩ := unused
  simp [reportedError_eq_causedErrors, checks, badOff, badP, overlap, Option.or_assoc]

/-- What KODD reports is what its one check answers. -/
theorem reportedError_kodd (off : Nat) : reportedError (.kodd off) s = offsetError s.cfg off := by
  simp [reportedError_eq_causedErrors, causedError, causeOf, offsetCause, capacityCause, readsP, usesA, usesC,
    offsetError]

end

/-! ### Every command -/

/-- The answer of a command that checks for `err`: it takes the error, else it completes without error and keeps EINFO. -/
def State.EndsBy (s : State) (err : Option ErrCode) (a : Answer) : Prop :=
  ∃ effect : State → State,
    a = .next (s.guarded err effect) ∧ (effect s).completedFrom s ∧ (effect s).einfo = s.einfo

theorem State.EndsBy.congr {s : State} {err err' : Option ErrCode} {a : Answer} (h : s.EndsBy err a) (e : err' = err) :
    s.EndsBy err' a :=
  e ▸ h

/-- A command that has an error to report takes it (60_exceptions.md R258). -/
theorem State.EndsBy.raise {s : State} {e : ErrCode} {a : Answer} (h : s.EndsBy (some e) a) : a = .next (s.raise e) := by
  obtain ⟨_, run, _⟩ := h
  exact run

/-- A command that has none completes (60_exceptions.md R258). -/
theorem State.EndsBy.complete {s : State} {a : Answer} (h : s.EndsBy none a) :
    ∃ t, a = .next t ∧ t.completedFrom s ∧ t.einfo = s.einfo := by
  obtain ⟨effect, run, ended⟩ := h
  exact ⟨effect s, run, ended⟩

/-- ADDL and SUBL check CAPACITY last, on the carry or borrow out (60_exceptions.md R259, R260). -/
theorem State.guarded_writeInPlace_endsBy {i : Instr} {s : State} {r : State → Nat} {out : State → Bool}
    (capacity : capacityCause i s = (s.src.ctrl.capchk && out s)) :
    s.EndsBy (s.inPlaceError <|> causedError .capacity i s)
      (.next (s.guarded s.inPlaceError fun t => t.writeInPlace (r t) (out t))) := by
  refine ⟨fun t => ((t.memWrite t.regionA.base t.regionA.len (r t)).flags (out t) (r t == 0)).finish, ?_,
    ⟨rfl, rfl, rfl, rfl, rfl, rfl⟩, rfl⟩
  cases s.inPlaceError with
  | some e => rfl
  | none =>
    have last : (none <|> causedError .capacity i s) = if out s && s.src.ctrl.capchk then some .capacity else none := by
      rw [Bool.and_comm, ← capacity]
      rfl
    rw [last, State.guarded, State.writeInPlace]
    split <;> rfl

/-- Every command checks for the error that it reports (60_exceptions.md R251, R259). -/
theorem exec_endsBy_reportedError (i : Instr) (s : State) : s.EndsBy (reportedError i s) (exec i s) := by
  cases i with
  | nop => exact ⟨State.finish, rfl, ⟨rfl, rfl, rfl, rfl, rfl, rfl⟩, rfl⟩
  | kadd | ksub | kmul => exact ⟨fun t => (t.setPair _ _).finish, rfl, ⟨rfl, rfl, rfl, rfl, rfl, rfl⟩, rfl⟩
  | kodd off => exact State.EndsBy.congr ⟨_, rfl, ⟨rfl, rfl, rfl, rfl, rfl, rfl⟩, rfl⟩ (reportedError_kodd off)
  | addl => exact State.EndsBy.congr (State.guarded_writeInPlace_endsBy rfl) (reportedError_of_linear (.inl rfl))
  | subl =>
    refine State.EndsBy.congr (State.guarded_writeInPlace_endsBy ?_) (reportedError_of_linear (.inr rfl))
    have borrow : decide (s.regionVal s.regionA < s.bLimb)
        = decide ((s.regionVal s.regionA : Int) - s.bLimb < 0) := decide_eq_decide.2 (by omega)
    rw [capacityCause, borrow]
  | sqr | red | rpass =>
    exact State.EndsBy.congr ⟨_, rfl, ⟨rfl, rfl, rfl, rfl, rfl, rfl⟩, rfl⟩ (reportedError_of_usesA_usesC rfl rfl)
  | mkmp | clr =>
    exact State.EndsBy.congr ⟨_, rfl, ⟨rfl, rfl, rfl, rfl, rfl, rfl⟩, rfl⟩ (reportedError_of_usesC_only rfl rfl)

theorem exec_of_reportedError {i : Instr} {s : State} {e : ErrCode} (h : reportedError i s = some e) :
    exec i s = .next (s.raise e) :=
  (h ▸ exec_endsBy_reportedError i s).raise

theorem exec_of_noError {i : Instr} {s : State} (h : reportedError i s = none) :
    ∃ t, exec i s = .next t ∧ t.completedFrom s ∧ t.einfo = s.einfo :=
  (h ▸ exec_endsBy_reportedError i s).complete

/-! ### The obligations -/

/-- Settles O9: `exec_endsBy_reportedError` and its two ends, with the codes of R252. -/
theorem firstErrorIsReported : Obligations.FirstErrorIsReported := by
  intro i s
  refine ⟨fun e => exec_of_reportedError, fun e n q code h hq => ?_, reportedError_ne_illegalCmd i s, fun h => ?_⟩
  · have hn : e.code = n := by
      simp only [List.mem_cons, List.not_mem_nil, or_false, Prod.mk.injEq] at code
      rcases code with ⟨rfl, rfl⟩ | ⟨rfl, rfl⟩ | ⟨rfl, rfl⟩ | ⟨rfl, rfl⟩ | ⟨rfl, rfl⟩ | ⟨rfl, rfl⟩ <;> rfl
    rw [exec_of_reportedError h, State.raise, hn, State.word, hq]
  · obtain ⟨t, run, completed, _⟩ := exec_of_noError h
    exact ⟨t, run, completed⟩

/-- Settles O8: by whether an error is reported. -/
theorem everyCommandEnds : Obligations.EveryCommandEnds := by
  intro i s
  cases h : reportedError i s with
  | some e => exact ⟨_, exec_of_reportedError h, .inr ⟨e, rfl⟩⟩
  | none =>
    obtain ⟨t, run, ended⟩ := exec_of_noError h
    exact ⟨t, run, .inl ended⟩

/-- Settles O22: the checks before CAPACITY pass on a region that is ready, and its cause holds. -/
theorem capacityIsRaised : Obligations.CapacityIsRaised := by
  intro s ready capchk
  have checks := s.inPlaceError_none_iff.2 ready
  constructor
  · intro carry
    apply exec_of_reportedError
    rw [reportedError_of_linear (.inl rfl), checks]
    simp [causedError, causeOf, capacityCause, capchk, carry]
  · intro borrow
    apply exec_of_reportedError
    rw [reportedError_of_linear (.inr rfl), checks]
    simp [causedError, causeOf, capacityCause, capchk, borrow]

/-- Settles O57: no command writes CTRL, and each sets DONE or ERR (O8). -/
theorem completionRaisesIrq : Obligations.CompletionRaisesIrq := by
  refine ⟨fun s => rfl, fun i s t run => ?_⟩
  obtain ⟨_, regs, _⟩ := exec_frame run
  obtain ⟨u, run', ended⟩ := everyCommandEnds i s
  obtain rfl : t = u := Host.Outcome.next.inj (run.symm.trans run')
  have raised : (t.status.done || t.status.err) = true := by
    rcases ended with ⟨⟨_, _, done, _⟩, _⟩ | ⟨e, rfl⟩
    · rw [done, Bool.true_or]
    · exact Bool.or_true _
  rw [State.irq, regs, raised, Bool.and_true]

end Sys2Proof.Machine
end

section
/-! What no event undoes (60_exceptions.md R262, R276): the host-side fault stays, and an idle block keeps all state. -/

namespace Sys2Proof.Machine

/-- Settles O7: the step is the block's turn, which does nothing with the latch empty. -/
theorem idleHoldsState : Obligations.IdleHoldsState := by
  intro s hi hp
  rw [step_of_inbox_nil hi, State.blockTurn, State.fetch, hp, Option.map_none]

theorem State.hostFault_of_blockTurn {s t : State} (h : s.blockTurn = .next t) : t.hostFault = s.hostFault := by
  rcases s.blockTurn_cases with ⟨_, e⟩ | ⟨_, _, ⟨_, _, e⟩ | ⟨i, _, e⟩⟩ <;> rw [e] at h
  · cases h; rfl
  · cases h; rfl
  · obtain ⟨_, _, _, _, _, _, _, fault, _⟩ := exec_frame h
    exact fault

/-- An access records the fault where the bus refuses it, and else leaves the record alone. -/
theorem State.hostFault_of_access {s t : State} {a : Access} (h : s.access a = .next t) :
    t.hostFault = true ∨ t.hostFault = s.hostFault := by
  rcases s.access_cases a with ⟨_, e⟩ | ⟨_, _, e⟩ | ⟨_, _, ⟨_, _, _, e⟩ | ⟨_, _, d, _, e⟩⟩ <;> rw [e] at h <;> cases h
  · cases a <;> exact .inl rfl
  · unfold State.hostRead
    split <;> exact .inr rfl
  · obtain ⟨_, fault, _⟩ := s.hostWrite_frame (target s.cfg _) d
    exact .inr fault

/-- Settles O15: no turn, access or reset clears the record. -/
theorem hostFaultIsSticky : Obligations.HostFaultIsSticky := by
  intro s t run fault
  rcases step_cases s with ⟨_, e⟩ | ⟨ev, rest, _, e⟩ <;> rw [e] at run
  · exact (State.hostFault_of_blockTurn run).trans fault
  · cases ev with
    | access a => exact (State.hostFault_of_access run).elim id fun kept => kept.trans fault
    | blockTurn => exact (State.hostFault_of_blockTurn run).trans fault
    | reset => cases run; exact fault

end Sys2Proof.Machine
end

section
/-! The reset state and the reset input (70_reset_and_hazards.md R290, R291; 10_state.md R22). -/

namespace Sys2Proof.Machine

/-- The reset state of an allowed build: no limb is written, no command is in flight, every register holds 0 in its width. -/
theorem State.resetOf_inv {c : Config} (build : c.wellFormed = true) : (State.resetOf c).Inv where
  build := build
  canonical := List.Pairwise.nil
  inLM := List.forall_mem_nil _
  widthRegs := ⟨Nat.two_pow_pos _, Nat.two_pow_pos _, Nat.two_pow_pos _⟩
  widthResults := ⟨Nat.two_pow_pos _, Nat.two_pow_pos _⟩
  busyLatch := rfl
  snapshot := fun _ inFlight => nomatch inFlight
  busyAlone := fun busy => nomatch busy
  doneOrErr := fun ⟨done, _⟩ => nomatch done
  errCode := by simp [State.resetOf, Status.reset]

/-- Settles O12: `State.resetOf_inv`, of every allowed build and of the one that `State.reset` is of (log 1). -/
theorem resetHasInvariant : Obligations.ResetHasInvariant :=
  have sampleAllowed : Config.sample.wellFormed = true := by decide
  ⟨fun _ => State.resetOf_inv, State.resetOf_inv sampleAllowed⟩

theorem step_of_reset {s : State} {rest : List Event} (hi : s.inbox = .reset :: rest) :
    step s = .next (State.resetInput { s with inbox := rest }) :=
  step_of_inbox_cons hi

/-- Settles O59: after the reset input no byte is listed as written, so each is the free value (log 2). -/
theorem resetLeavesMemoryUnspecified : Obligations.ResetLeavesMemoryUnspecified :=
  fun _ _ hi => ⟨_, step_of_reset hi, rfl, fun _ => rfl⟩

/-! ### What the registers read as after the reset input -/

/-- A register of width W that holds 0 reads as 0. -/
theorem limbVal_zero (c : Config) : limbVal c 0 = 0 := Nat.zero_mod _

/-- With P = 0 the modulus has no limbs and LMASK is all ones (10_state.md R29). -/
theorem mpn_lmask_zero (c : Config) : mpn c 0 = 0 ∧ lmask c 0 = 2 ^ c.W - 1 := by
  have hW := c.W_pos
  exact ⟨Nat.div_eq_of_lt (by omega), if_pos (Nat.zero_mod _)⟩

/-- The registers whose reset value is 0 and that read what they hold (10_state.md R22). -/
theorem State.current_resetInput_eq_zero (s : State) :
    ∀ r ∈ [Target.status, .cmd, .p, .abase, .alen, .cbase, .clen, .bval, .opa, .opb, .rlo, .rhi, .passes, .einfo],
      s.resetInput.current r = 0 := by
  have narrow : BitVec.ofNat 64 (limbVal s.cfg 0) = 0 := congrArg (BitVec.ofNat 64) (limbVal_zero s.cfg)
  simp only [List.forall_mem_cons]
  exact ⟨rfl, rfl, rfl, rfl, rfl, rfl, rfl, narrow, narrow, narrow, narrow, narrow, rfl, rfl, List.forall_mem_nil _⟩

/-- Settles O58: the registers hold their reset values, and MPN and LMASK are those of P = 0. -/
theorem resetInputResets : Obligations.ResetInputResets := by
  intro s rest hi
  obtain ⟨mpn0, lmask0⟩ := mpn_lmask_zero s.cfg
  have mpnReads : (State.resetInput { s with inbox := rest }).current .mpn = 0 := congrArg (BitVec.ofNat 64) mpn0
  have lmaskReads := (State.current_lmask (State.resetInput { s with inbox := rest })).trans lmask0
  exact ⟨_, step_of_reset hi, rfl, rfl, rfl, rfl, rfl, mpnReads, lmaskReads, State.current_resetInput_eq_zero _⟩

end Sys2Proof.Machine
end

section
/-! The hazards of the completion protocol (70_reset_and_hazards.md R300, R305, R310): a host that keeps its duties loses no
write, and every command ends. -/

namespace Sys2Proof.Machine

section
variable {s : State}

/-! ### The block's turn -/

/-- The block's turn always answers a next state, and touches neither OVR nor the events to come. -/
theorem State.blockTurn_next (s : State) :
    ∃ t, s.blockTurn = .next t ∧ t.inbox = s.inbox ∧ t.status.ovr = s.status.ovr := by
  rcases s.blockTurn_cases with ⟨_, e⟩ | ⟨_, _, ⟨_, _, e⟩ | ⟨i, _, e⟩⟩
  · exact ⟨s, e, rfl, rfl⟩
  · exact ⟨_, e, rfl, rfl⟩
  · obtain ⟨t, run⟩ := exec_next i s
    obtain ⟨_, _, _, inbox, _, _, _, _, _, _, ovr⟩ := exec_frame run
    exact ⟨t, e.trans run, inbox, ovr⟩

/-- It ends the command in flight; with none in flight BUSY is 0 already (10_state.md R40). -/
theorem State.Inv.idle_of_blockTurn {t : State} (h : s.Inv) (run : s.blockTurn = .next t) :
    t.status.busy = false ∧ t.pend = none := by
  rcases s.blockTurn_cases with ⟨hp, e⟩ | ⟨_, _, ⟨_, _, e⟩ | ⟨i, _, e⟩⟩ <;> rw [e] at run
  · cases run
    exact ⟨by rw [h.busyLatch, hp]; rfl, hp⟩
  · cases run
    exact ⟨rfl, rfl⟩
  · obtain ⟨_, _, _, _, _, _, _, _, pend, busy, _⟩ := exec_frame run
    exact ⟨busy, pend⟩

/-! ### Whatever the host does in the window -/

/-- A permitted read leaves STATUS, the host-side fault and the events to come alone (20_memory.md R76). -/
theorem State.hostRead_frame (s : State) (t : Target) :
    (s.hostRead t).status = s.status ∧ (s.hostRead t).hostFault = s.hostFault ∧ (s.hostRead t).inbox = s.inbox := by
  unfold State.hostRead
  split <;> exact ⟨rfl, rfl, rfl⟩

/-- An access in the window answers a next state, and leaves the events to come alone. -/
theorem State.access_next {a : Access} (hw : inWindow s.cfg a.addr = true) :
    ∃ t, s.access a = .next t ∧ t.inbox = s.inbox := by
  rcases s.access_cases a with ⟨outside, _⟩ | ⟨_, _, e⟩ | ⟨_, _, ⟨_, _, _, e⟩ | ⟨_, _, d, _, e⟩⟩
  · exact absurd (hw.symm.trans outside) (by decide)
  · exact ⟨_, e, by cases a <;> rfl⟩
  · obtain ⟨_, _, inbox⟩ := s.hostRead_frame (target s.cfg _)
    exact ⟨_, e, inbox⟩
  · obtain ⟨_, _, inbox, _⟩ := s.hostWrite_frame (target s.cfg _) d
    exact ⟨_, e, inbox⟩

/-- An event in the window is used up by one step. -/
theorem step_next_of_reachesBlock {e : Event} {rest : List Event} (hi : s.inbox = e :: rest)
    (he : e.reachesBlock s.cfg = true) : ∃ t, step s = .next t ∧ t.inbox = rest := by
  rw [step_of_inbox_cons hi]
  cases e with
  | access a => exact State.access_next (s := { s with inbox := rest }) he
  | blockTurn =>
    obtain ⟨t, run, inbox, _⟩ := State.blockTurn_next { s with inbox := rest }
    exact ⟨t, run, inbox⟩
  | reset => exact ⟨_, rfl, rfl⟩

/-- A run of one step more than there are events ends in the block's turn on an empty inbox. -/
theorem run_events_ends (h : s.Inv) {events : List Event} (hi : s.inbox = events)
    (reach : ∀ e ∈ events, e.reachesBlock s.cfg = true) :
    ∃ t, Sys2Proof.core.run (events.length + 1) s = .next t ∧ t.status.busy = false ∧ t.pend = none := by
  induction events generalizing s with
  | nil =>
    obtain ⟨t, turn, _⟩ := s.blockTurn_next
    exact ⟨t, core_run_of_next ((step_of_inbox_nil hi).trans turn) 0, h.idle_of_blockTurn turn⟩
  | cons e rest ih =>
    obtain ⟨reachHead, reachRest⟩ := List.forall_mem_cons.1 reach
    obtain ⟨u, first, inbox⟩ := step_next_of_reachesBlock hi reachHead
    have reachRest : ∀ e ∈ rest, e.reachesBlock u.cfg = true := by rwa [step_cfg first]
    obtain ⟨t, run, idle⟩ := ih (stepKeepsInvariant s u h first) inbox reachRest
    exact ⟨t, (core_run_of_next first _).trans run, idle⟩

/-! ### A host that keeps its duties -/

/-- Only a dropped write sets OVR: one to another target than STATUS while BUSY = 1, or a command while ERR = 1
(60_exceptions.md R263). -/
theorem State.hostWrite_keeps_ovr_clear {t : Target} {d : DWord} (whileBusy : s.status.busy = true → t = .status)
    (command : t = .cmd → s.status.err = false) :
    (s.hostWrite t d).status.ovr = true → s.status.ovr = true := by
  rcases s.hostWrite_cases t d with ⟨_, e⟩ | ⟨other, busy, _⟩ | ⟨rfl, idle, _⟩ | ⟨_, _, _, e⟩
  · rw [e, State.writeStatus_eq]
    exact fun kept => (Bool.and_eq_true_iff.1 kept).1
  · exact absurd (whileBusy busy) other
  · rw [State.hostWrite_cmd_accepted idle (command rfl)]
    exact id
  · rw [e]
    cases t <;> exact id

/-- A permitted access of a host, read or write (20_memory.md R75, R76). -/
theorem State.handle_permitted {x n : Nat} (hw : inWindow s.cfg x = true)
    (hp : permitted (x - s.cfg.hostBase) n = true) :
    s.handle (.access (.read x n)) = .next (s.hostRead (target s.cfg (x - s.cfg.hostBase))) ∧
    ∀ d, s.handle (.access (.write x n d))
      = .next ((s.hostWrite (target s.cfg (x - s.cfg.hostBase)) d).respond .ack) := by
  simp only [State.handle, State.access, Access.addr, Access.bytes, hw, hp, if_true, implies_true, and_self]

/-- A dutiful event answers a next state, does not set OVR and is no host-side fault; the duties on a write are the two
conditions of `State.hostWrite_keeps_ovr_clear`. -/
theorem State.handle_of_dutiful {e : Event} (duty : s.dutiful e = true) :
    ∃ t, s.handle e = .next t ∧ (t.status.ovr = true → s.status.ovr = true) ∧ t.hostFault = s.hostFault := by
  cases e with
  | access a =>
    cases a with
    | read x n =>
      simp only [State.dutiful, Bool.and_eq_true] at duty
      obtain ⟨⟨hw, hp⟩, _⟩ := duty
      obtain ⟨status, fault, _⟩ := s.hostRead_frame (target s.cfg (x - s.cfg.hostBase))
      exact ⟨_, (State.handle_permitted hw hp).1, fun ovr => status ▸ ovr, fault⟩
    | write x n d =>
      simp only [State.dutiful, Bool.and_eq_true, Bool.or_eq_true, Bool.not_eq_true', beq_iff_eq, bne_iff_ne] at duty
      obtain ⟨⟨⟨hw, hp⟩, whileBusy⟩, command⟩ := duty
      obtain ⟨_, fault, _⟩ := s.hostWrite_frame (target s.cfg (x - s.cfg.hostBase)) d
      have whileBusy (busy : s.status.busy = true) := whileBusy.resolve_left (by simp [busy])
      have command (cmd : target s.cfg (x - s.cfg.hostBase) = .cmd) := command.resolve_right (not_not_intro cmd)
      exact ⟨_, (State.handle_permitted hw hp).2 d, State.hostWrite_keeps_ovr_clear whileBusy command, fault⟩
  | blockTurn =>
    obtain ⟨t, turn, _, kept⟩ := s.blockTurn_next
    exact ⟨t, turn, fun ovr => kept ▸ ovr, State.hostFault_of_blockTurn turn⟩
  | reset => exact ⟨_, rfl, (fun ovr => nomatch ovr), rfl⟩

end

/-- Settles O10: by induction on the events to come (`run_events_ends`). -/
theorem acceptedCommandCompletes : Obligations.AcceptedCommandCompletes :=
  fun _ h reach => run_events_ends h rfl reach

/-- Settles O55: the step handles the event, and the host's duties do not depend on the events after it. -/
theorem dutifulHostIsNeverDropped : Obligations.DutifulHostIsNeverDropped := by
  intro s e rest hi duty
  rw [step_of_inbox_cons hi]
  exact State.handle_of_dutiful (s := { s with inbox := rest }) duty

end Sys2Proof.Machine
end
